-- ==== Sys2Proof/Word.lean ====
section
/-! DEFINITION. The word types of the core (spec/00_scope.md R7): 8-bit registers and memory bytes, 16-bit addresses. -/

namespace Sys2Proof

/-- An 8-bit value: a register, a memory byte, a status byte (R7). -/
abbrev Byte := BitVec 8

/-- A 16-bit value: an address or the program counter (R7). -/
abbrev Addr := BitVec 16

end Sys2Proof
end

