-- ==== Sys2Proof/Syntax.lean ====
section
/-! DEFINITION. The instructions: one constructor per mnemonic of spec/opcode_table.json, its operand form an argument, so that
each row of the table is one constructor with one operand form (WellFormed says which forms the table has). -/

namespace Sys2Proof

/-- The addressing forms that have an effective address (spec/40_execution.md R120), with their operand bytes. -/
inductive MemForm where
  /-- `$zz` -/
  | zp (zz : Byte)
  /-- `$zz,X` -/
  | zpx (zz : Byte)
  /-- `$zz,Y` -/
  | zpy (zz : Byte)
  /-- `$hhll`, the address `b2:b1` -/
  | abs (hhll : Addr)
  /-- `$hhll,X` -/
  | abx (hhll : Addr)
  /-- `$hhll,Y` -/
  | aby (hhll : Addr)
  /-- `($zz,X)` -/
  | idx (zz : Byte)
  /-- `($zz),Y` -/
  | idy (zz : Byte)
  deriving DecidableEq, Repr

/-- A source operand (R127): immediate or in memory. -/
inductive Source where
  | imm (value : Byte)
  | mem (form : MemForm)
  deriving DecidableEq, Repr

/-- The operand a read-modify-write instruction changes (R127): the accumulator or a byte of memory. -/
inductive Target where
  | acc
  | mem (form : MemForm)
  deriving DecidableEq, Repr

/-- The operand of a bit instruction (spec/45_bit_manip.md): the accumulator or a zero-page byte. -/
inductive BitTarget where
  | acc
  | zp (zz : Byte)
  deriving DecidableEq, Repr

/-- The operand of JMP (spec/44_control.md R240). -/
inductive JmpTarget where
  /-- `$hhll` -/
  | abs (hhll : Addr)
  /-- `($hhll)` -/
  | ind (hhll : Addr)
  /-- `($zz)` -/
  | zpi (zz : Byte)
  deriving DecidableEq, Repr

/-- The operand of JSR (R241, R242, R243). -/
inductive JsrTarget where
  /-- `$hhll` -/
  | abs (hhll : Addr)
  /-- `($zz)` -/
  | zpi (zz : Byte)
  /-- `\$zz`, the special page -/
  | sp (zz : Byte)
  deriving DecidableEq, Repr

/-- The instructions. `rel` is a signed displacement byte, `bit` a bit index 0 to 7. -/
inductive Instr where
  -- spec/41_arith.md
  | adc (f : Source)
  | sbc (f : Source)
  | cmp (f : Source)
  | cpx (f : Source)
  | cpy (f : Source)
  | inc (f : Target)
  | dec (f : Target)
  | inx
  | iny
  | dex
  | dey
  -- spec/42_logic_shift.md
  | and (f : Source)
  | ora (f : Source)
  | eor (f : Source)
  | bit (f : MemForm)
  | com (zz : Byte)
  | tst (zz : Byte)
  | asl (f : Target)
  | lsr (f : Target)
  | rol (f : Target)
  | ror (f : Target)
  -- spec/43_load_store.md
  | lda (f : Source)
  | ldx (f : Source)
  | ldy (f : Source)
  | ldm (value : Byte) (zz : Byte)
  | sta (f : MemForm)
  | stx (f : MemForm)
  | sty (f : MemForm)
  | tax
  | tay
  | txa
  | tya
  | tsx
  | txs
  | pha
  | php
  | pla
  | plp
  -- spec/44_control.md
  | bpl (rel : Byte)
  | bmi (rel : Byte)
  | bvc (rel : Byte)
  | bvs (rel : Byte)
  | bcc (rel : Byte)
  | bcs (rel : Byte)
  | bne (rel : Byte)
  | beq (rel : Byte)
  | bra (rel : Byte)
  | jmp (f : JmpTarget)
  | jsr (f : JsrTarget)
  | rts
  | rti
  /-- BRK is two bytes; the signature byte is fetched and ignored (R246). -/
  | brk (signature : Byte)
  -- spec/45_bit_manip.md
  | seb (i : BitVec 3) (f : BitTarget)
  | clb (i : BitVec 3) (f : BitTarget)
  | bbs (i : BitVec 3) (f : BitTarget) (rel : Byte)
  | bbc (i : BitVec 3) (f : BitTarget) (rel : Byte)
  | rrf (zz : Byte)
  -- spec/46_system.md
  | clc
  | sec
  | cli
  | sei
  | cld
  | sed
  | clv
  | clt
  /-- SET, set the T flag (R288). -/
  | setT
  | nop
  | wit
  | stp
  /-- One of the 25 UNDEFINED opcode bytes (R292). -/
  | undefined (op : Byte)
  /-- One of the two REFUSED opcode bytes, MUL and DIV on some family members (R293). -/
  | refusedOpcode (op : Byte)
  deriving DecidableEq, Repr

end Sys2Proof
end

