-- ==== Sys2Proof/WellFormed.lean ====
section
/-! DEFINITION. Which operand forms the opcode table has for each mnemonic (spec/30_encoding.md R89), and which bytes are UNDEFINED or
REFUSED (R90). An instruction is well formed exactly when it is a row of spec/opcode_table.json with operand bytes. -/

namespace Sys2Proof

/-- The eight source forms of ADC, SBC, CMP, AND, ORA, EOR and LDA: every form but `$zz,Y`. -/
def Source.isAccumulatorForm : Source → Bool
  | .imm _ => true
  | .mem (.zpy _) => false
  | .mem _ => true

/-- The three source forms of CPX and CPY: `#$nn`, `$zz`, `$hhll`. -/
def Source.isCompareForm : Source → Bool
  | .imm _ | .mem (.zp _) | .mem (.abs _) => true
  | _ => false

/-- The five source forms of LDX: it indexes by Y. -/
def Source.isLdxForm : Source → Bool
  | .imm _ | .mem (.zp _) | .mem (.zpy _) | .mem (.abs _) | .mem (.aby _) => true
  | _ => false

/-- The five source forms of LDY: it indexes by X. -/
def Source.isLdyForm : Source → Bool
  | .imm _ | .mem (.zp _) | .mem (.zpx _) | .mem (.abs _) | .mem (.abx _) => true
  | _ => false

/-- The five forms of INC, DEC, ASL, LSR, ROL and ROR. -/
def Target.isModifyForm : Target → Bool
  | .acc | .mem (.zp _) | .mem (.zpx _) | .mem (.abs _) | .mem (.abx _) => true
  | _ => false

/-- The seven forms of STA: every form but `$zz,Y`. -/
def MemForm.isStaForm : MemForm → Bool
  | .zpy _ => false
  | _ => true

/-- The three forms of STX. -/
def MemForm.isStxForm : MemForm → Bool
  | .zp _ | .zpy _ | .abs _ => true
  | _ => false

/-- The three forms of STY. -/
def MemForm.isStyForm : MemForm → Bool
  | .zp _ | .zpx _ | .abs _ => true
  | _ => false

/-- The two forms of BIT. -/
def MemForm.isBitForm : MemForm → Bool
  | .zp _ | .abs _ => true
  | _ => false

/-- The 25 UNDEFINED opcode bytes (R90). -/
def undefinedBytes : List Byte :=
  [0x04#8, 0x0C#8, 0x14#8, 0x1C#8, 0x34#8, 0x52#8, 0x54#8, 0x5A#8, 0x5C#8] ++
  [0x72#8, 0x74#8, 0x7A#8, 0x7C#8, 0x89#8, 0x92#8, 0x9C#8, 0x9E#8] ++
  [0xD2#8, 0xD4#8, 0xDA#8, 0xDC#8, 0xF2#8, 0xF4#8, 0xFA#8, 0xFC#8]

/-- The two REFUSED opcode bytes (R90): MUL and DIV on some family members. -/
def refusedBytes : List Byte := [0x62#8, 0xE2#8]

/-- The instruction is a row of the opcode table with operand bytes. -/
def Instr.wf : Instr → Bool
  | .adc f | .sbc f | .cmp f | .and f | .ora f | .eor f | .lda f => f.isAccumulatorForm
  | .cpx f | .cpy f => f.isCompareForm
  | .ldx f => f.isLdxForm
  | .ldy f => f.isLdyForm
  | .inc f | .dec f | .asl f | .lsr f | .rol f | .ror f => f.isModifyForm
  | .bit f => f.isBitForm
  | .sta f => f.isStaForm
  | .stx f => f.isStxForm
  | .sty f => f.isStyForm
  | .undefined op => undefinedBytes.contains op
  | .refusedOpcode op => refusedBytes.contains op
  | .inx | .iny | .dex | .dey | .com _ | .tst _ | .ldm _ _ => true
  | .tax | .tay | .txa | .tya | .tsx | .txs | .pha | .php | .pla | .plp => true
  | .bpl _ | .bmi _ | .bvc _ | .bvs _ | .bcc _ | .bcs _ | .bne _ | .beq _ | .bra _ => true
  | .jmp _ | .jsr _ | .rts | .rti | .brk _ => true
  | .seb _ _ | .clb _ _ | .bbs _ _ _ | .bbc _ _ _ | .rrf _ => true
  | .clc | .sec | .cli | .sei | .cld | .sed | .clv | .clt | .setT | .nop | .wit | .stp => true

/-- An admitted instruction (R88): neither UNDEFINED nor REFUSED. -/
def Instr.admitted : Instr → Bool
  | .undefined _ | .refusedOpcode _ => false
  | _ => true

end Sys2Proof
end

