-- ==== Sys2Proof/Decode.lean ====
section
/-! DEFINITION. The decoder (spec/30_encoding.md): total on every opcode byte, a table of 256 entries laid out as the map of R88; and the
encoder, written from the forms and opcode bytes of R81, R82 and R89. -/

namespace Sys2Proof

/-! ## Decoding -/

/-- A table entry: the instruction that the operand bytes `b1` and `b2` complete (R81). An entry ignores the operand bytes its
format does not have. -/
abbrev Entry := Byte → Byte → Instr

/-- The 16-bit operand `b2:b1` (R85): the first operand byte is the low one. -/
def wordOf (b1 b2 : Byte) : Addr := b2 ++ b1

namespace Forms

/-- F1: implied. -/
def imp (i : Instr) : Entry := fun _ _ => i
/-- F1: the accumulator form. -/
def acc (k : Target → Instr) : Entry := fun _ _ => k .acc
/-- F2: immediate (R83). -/
def imm (k : Source → Instr) : Entry := fun b1 _ => k (.imm b1)
/-- A source operand in memory. -/
def src (k : Source → Instr) : MemForm → Instr := fun f => k (.mem f)
/-- A read-modify-write operand in memory. -/
def tgt (k : Target → Instr) : MemForm → Instr := fun f => k (.mem f)
/-- F2: `$zz`. -/
def zp (k : MemForm → Instr) : Entry := fun b1 _ => k (.zp b1)
/-- F2: `$zz,X`. -/
def zpx (k : MemForm → Instr) : Entry := fun b1 _ => k (.zpx b1)
/-- F2: `$zz,Y`. -/
def zpy (k : MemForm → Instr) : Entry := fun b1 _ => k (.zpy b1)
/-- F3: `$hhll`. -/
def abs (k : MemForm → Instr) : Entry := fun b1 b2 => k (.abs (wordOf b1 b2))
/-- F3: `$hhll,X`. -/
def abx (k : MemForm → Instr) : Entry := fun b1 b2 => k (.abx (wordOf b1 b2))
/-- F3: `$hhll,Y`. -/
def aby (k : MemForm → Instr) : Entry := fun b1 b2 => k (.aby (wordOf b1 b2))
/-- F2: `($zz,X)`. -/
def idx (k : MemForm → Instr) : Entry := fun b1 _ => k (.idx b1)
/-- F2: `($zz),Y`. -/
def idy (k : MemForm → Instr) : Entry := fun b1 _ => k (.idy b1)
/-- F2: one operand byte (relative branches, COM, TST, RRF, BRK). -/
def byte1 (k : Byte → Instr) : Entry := fun b1 _ => k b1
/-- F3: LDM, `b1` the immediate and `b2` the zero-page address (R81, R203). -/
def ldmEntry : Entry := fun b1 b2 => .ldm b1 b2
/-- F3: `JMP $hhll`. -/
def jmpAbs : Entry := fun b1 b2 => .jmp (.abs (wordOf b1 b2))
/-- F3: `JMP ($hhll)`. -/
def jmpInd : Entry := fun b1 b2 => .jmp (.ind (wordOf b1 b2))
/-- F2: `JMP ($zz)`. -/
def jmpZpi : Entry := fun b1 _ => .jmp (.zpi b1)
/-- F3: `JSR $hhll`. -/
def jsrAbs : Entry := fun b1 b2 => .jsr (.abs (wordOf b1 b2))
/-- F2: `JSR ($zz)`. -/
def jsrZpi : Entry := fun b1 _ => .jsr (.zpi b1)
/-- F2: the special-page JSR (R87). -/
def jsrSp : Entry := fun b1 _ => .jsr (.sp b1)
/-- F1B: `SEB i,A`, `CLB i,A`. -/
def bitA (k : BitVec 3 → BitTarget → Instr) (i : BitVec 3) : Entry := fun _ _ => k i .acc
/-- F2B: `SEB i,$zz`, `CLB i,$zz`. -/
def bitZ (k : BitVec 3 → BitTarget → Instr) (i : BitVec 3) : Entry := fun b1 _ => k i (.zp b1)
/-- F2B: `BBS i,A,rel`, `BBC i,A,rel`. -/
def bbA (k : BitVec 3 → BitTarget → Byte → Instr) (i : BitVec 3) : Entry := fun b1 _ => k i .acc b1
/-- F3B: `BBS i,$zz,rel`, `BBC i,$zz,rel`. -/
def bbZ (k : BitVec 3 → BitTarget → Byte → Instr) (i : BitVec 3) : Entry := fun b1 b2 => k i (.zp b1) b2
/-- An UNDEFINED byte. -/
def undef (op : Byte) : Entry := fun _ _ => .undefined op
/-- A REFUSED byte. -/
def refd (op : Byte) : Entry := fun _ _ => .refusedOpcode op

end Forms

open Forms

/-! The opcode map of R88, one row of sixteen entries per high nibble. -/

/-- Opcode bytes 0x00 to 0x0F. -/
def opcodeRow0 : List Entry :=
  [byte1 .brk, idx (src .ora), jsrZpi, bbA .bbs 0,
   undef 0x04#8, zp (src .ora), zp (tgt .asl), bbZ .bbs 0,
   imp .php, imm .ora, acc .asl, bitA .seb 0,
   undef 0x0C#8, abs (src .ora), abs (tgt .asl), bitZ .seb 0]

/-- Opcode bytes 0x10 to 0x1F. -/
def opcodeRow1 : List Entry :=
  [byte1 .bpl, idy (src .ora), imp .clt, bbA .bbc 0,
   undef 0x14#8, zpx (src .ora), zpx (tgt .asl), bbZ .bbc 0,
   imp .clc, aby (src .ora), acc .dec, bitA .clb 0,
   undef 0x1C#8, abx (src .ora), abx (tgt .asl), bitZ .clb 0]

/-- Opcode bytes 0x20 to 0x2F. -/
def opcodeRow2 : List Entry :=
  [jsrAbs, idx (src .and), jsrSp, bbA .bbs 1,
   zp .bit, zp (src .and), zp (tgt .rol), bbZ .bbs 1,
   imp .plp, imm .and, acc .rol, bitA .seb 1,
   abs .bit, abs (src .and), abs (tgt .rol), bitZ .seb 1]

/-- Opcode bytes 0x30 to 0x3F. -/
def opcodeRow3 : List Entry :=
  [byte1 .bmi, idy (src .and), imp .setT, bbA .bbc 1,
   undef 0x34#8, zpx (src .and), zpx (tgt .rol), bbZ .bbc 1,
   imp .sec, aby (src .and), acc .inc, bitA .clb 1,
   ldmEntry, abx (src .and), abx (tgt .rol), bitZ .clb 1]

/-- Opcode bytes 0x40 to 0x4F. -/
def opcodeRow4 : List Entry :=
  [imp .rti, idx (src .eor), imp .stp, bbA .bbs 2,
   byte1 .com, zp (src .eor), zp (tgt .lsr), bbZ .bbs 2,
   imp .pha, imm .eor, acc .lsr, bitA .seb 2,
   jmpAbs, abs (src .eor), abs (tgt .lsr), bitZ .seb 2]

/-- Opcode bytes 0x50 to 0x5F. -/
def opcodeRow5 : List Entry :=
  [byte1 .bvc, idy (src .eor), undef 0x52#8, bbA .bbc 2,
   undef 0x54#8, zpx (src .eor), zpx (tgt .lsr), bbZ .bbc 2,
   imp .cli, aby (src .eor), undef 0x5A#8, bitA .clb 2,
   undef 0x5C#8, abx (src .eor), abx (tgt .lsr), bitZ .clb 2]

/-- Opcode bytes 0x60 to 0x6F. -/
def opcodeRow6 : List Entry :=
  [imp .rts, idx (src .adc), refd 0x62#8, bbA .bbs 3,
   byte1 .tst, zp (src .adc), zp (tgt .ror), bbZ .bbs 3,
   imp .pla, imm .adc, acc .ror, bitA .seb 3,
   jmpInd, abs (src .adc), abs (tgt .ror), bitZ .seb 3]

/-- Opcode bytes 0x70 to 0x7F. -/
def opcodeRow7 : List Entry :=
  [byte1 .bvs, idy (src .adc), undef 0x72#8, bbA .bbc 3,
   undef 0x74#8, zpx (src .adc), zpx (tgt .ror), bbZ .bbc 3,
   imp .sei, aby (src .adc), undef 0x7A#8, bitA .clb 3,
   undef 0x7C#8, abx (src .adc), abx (tgt .ror), bitZ .clb 3]

/-- Opcode bytes 0x80 to 0x8F. -/
def opcodeRow8 : List Entry :=
  [byte1 .bra, idx .sta, byte1 .rrf, bbA .bbs 4,
   zp .sty, zp .sta, zp .stx, bbZ .bbs 4,
   imp .dey, undef 0x89#8, imp .txa, bitA .seb 4,
   abs .sty, abs .sta, abs .stx, bitZ .seb 4]

/-- Opcode bytes 0x90 to 0x9F. -/
def opcodeRow9 : List Entry :=
  [byte1 .bcc, idy .sta, undef 0x92#8, bbA .bbc 4,
   zpx .sty, zpx .sta, zpy .stx, bbZ .bbc 4,
   imp .tya, aby .sta, imp .txs, bitA .clb 4,
   undef 0x9C#8, abx .sta, undef 0x9E#8, bitZ .clb 4]

/-- Opcode bytes 0xA0 to 0xAF. -/
def opcodeRowA : List Entry :=
  [imm .ldy, idx (src .lda), imm .ldx, bbA .bbs 5,
   zp (src .ldy), zp (src .lda), zp (src .ldx), bbZ .bbs 5,
   imp .tay, imm .lda, imp .tax, bitA .seb 5,
   abs (src .ldy), abs (src .lda), abs (src .ldx), bitZ .seb 5]

/-- Opcode bytes 0xB0 to 0xBF. -/
def opcodeRowB : List Entry :=
  [byte1 .bcs, idy (src .lda), jmpZpi, bbA .bbc 5,
   zpx (src .ldy), zpx (src .lda), zpy (src .ldx), bbZ .bbc 5,
   imp .clv, aby (src .lda), imp .tsx, bitA .clb 5,
   abx (src .ldy), abx (src .lda), aby (src .ldx), bitZ .clb 5]

/-- Opcode bytes 0xC0 to 0xCF. -/
def opcodeRowC : List Entry :=
  [imm .cpy, idx (src .cmp), imp .wit, bbA .bbs 6,
   zp (src .cpy), zp (src .cmp), zp (tgt .dec), bbZ .bbs 6,
   imp .iny, imm .cmp, imp .dex, bitA .seb 6,
   abs (src .cpy), abs (src .cmp), abs (tgt .dec), bitZ .seb 6]

/-- Opcode bytes 0xD0 to 0xDF. -/
def opcodeRowD : List Entry :=
  [byte1 .bne, idy (src .cmp), undef 0xD2#8, bbA .bbc 6,
   undef 0xD4#8, zpx (src .cmp), zpx (tgt .dec), bbZ .bbc 6,
   imp .cld, aby (src .cmp), undef 0xDA#8, bitA .clb 6,
   undef 0xDC#8, abx (src .cmp), abx (tgt .dec), bitZ .clb 6]

/-- Opcode bytes 0xE0 to 0xEF. -/
def opcodeRowE : List Entry :=
  [imm .cpx, idx (src .sbc), refd 0xE2#8, bbA .bbs 7,
   zp (src .cpx), zp (src .sbc), zp (tgt .inc), bbZ .bbs 7,
   imp .inx, imm .sbc, imp .nop, bitA .seb 7,
   abs (src .cpx), abs (src .sbc), abs (tgt .inc), bitZ .seb 7]

/-- Opcode bytes 0xF0 to 0xFF. -/
def opcodeRowF : List Entry :=
  [byte1 .beq, idy (src .sbc), undef 0xF2#8, bbA .bbc 7,
   undef 0xF4#8, zpx (src .sbc), zpx (tgt .inc), bbZ .bbc 7,
   imp .sed, aby (src .sbc), undef 0xFA#8, bitA .clb 7,
   undef 0xFC#8, abx (src .sbc), abx (tgt .inc), bitZ .clb 7]

/-- The opcode map of R88: entry `op` is the meaning of opcode byte `op`. -/
def opcodeMap : List Entry :=
  opcodeRow0 ++ opcodeRow1 ++ opcodeRow2 ++ opcodeRow3 ++ opcodeRow4 ++ opcodeRow5 ++ opcodeRow6 ++ opcodeRow7 ++
  opcodeRow8 ++ opcodeRow9 ++ opcodeRowA ++ opcodeRowB ++ opcodeRowC ++ opcodeRowD ++ opcodeRowE ++ opcodeRowF

/-- The instruction of an opcode byte and its operand bytes: a total function of the opcode byte (R88). -/
def decodeWith (op b1 b2 : Byte) : Instr :=
  (opcodeMap.getD op.toNat (undef op)) b1 b2

/-- How many bytes a memory form's operand takes. -/
def MemForm.operandBytes : MemForm → Nat
  | .abs _ | .abx _ | .aby _ => 2
  | .zp _ | .zpx _ | .zpy _ | .idx _ | .idy _ => 1

/-- The instruction's length in bytes (R80 and the length column of the table). An UNDEFINED or REFUSED byte is one byte: the
refusal happens at the opcode fetch (R292). -/
def Instr.length : Instr → Nat
  | .adc f | .sbc f | .cmp f | .and f | .ora f | .eor f | .lda f | .cpx f | .cpy f | .ldx f | .ldy f =>
    match f with
    | .imm _ => 2
    | .mem m => 1 + m.operandBytes
  | .inc f | .dec f | .asl f | .lsr f | .rol f | .ror f =>
    match f with
    | .acc => 1
    | .mem m => 1 + m.operandBytes
  | .bit f | .sta f | .stx f | .sty f => 1 + f.operandBytes
  | .com _ | .tst _ | .rrf _ | .brk _ => 2
  | .ldm _ _ => 3
  | .bpl _ | .bmi _ | .bvc _ | .bvs _ | .bcc _ | .bcs _ | .bne _ | .beq _ | .bra _ => 2
  | .jmp f =>
    match f with
    | .abs _ | .ind _ => 3
    | .zpi _ => 2
  | .jsr f =>
    match f with
    | .abs _ => 3
    | .zpi _ | .sp _ => 2
  | .seb _ f | .clb _ f =>
    match f with
    | .acc => 1
    | .zp _ => 2
  | .bbs _ f _ | .bbc _ f _ =>
    match f with
    | .acc => 2
    | .zp _ => 3
  | .inx | .iny | .dex | .dey | .tax | .tay | .txa | .tya | .tsx | .txs | .pha | .php | .pla | .plp => 1
  | .rts | .rti | .clc | .sec | .cli | .sei | .cld | .sed | .clv | .clt | .setT | .nop | .wit | .stp => 1
  | .undefined _ | .refusedOpcode _ => 1

/-- The length as a function of the opcode byte alone (R80). -/
def opcodeLength (op : Byte) : Nat := (decodeWith op 0#8 0#8).length

/-- Why a byte sequence is not an instruction: it ends too soon. Every opcode byte has an entry, so nothing else is rejected. -/
inductive DecodeError where
  /-- No byte at all. -/
  | noOpcode
  /-- The operand bytes of this opcode byte are missing. -/
  | missingOperand (op : Byte)
  deriving DecidableEq, Repr

/-- What the decoder reads from a byte sequence: an instruction and the bytes after it, or a rejection by name. -/
inductive DecodeResult where
  | ok (i : Instr) (rest : List Byte)
  | rejected (e : DecodeError)
  deriving DecidableEq, Repr

/-- Decode the first instruction of a byte sequence, and give back the bytes after it. -/
def decode (bytes : List Byte) : DecodeResult :=
  match bytes with
  | [] => .rejected .noOpcode
  | op :: rest =>
    match opcodeLength op, rest with
    | 1, rest => .ok (decodeWith op 0#8 0#8) rest
    | 2, b1 :: rest => .ok (decodeWith op b1 0#8) rest
    | 3, b1 :: b2 :: rest => .ok (decodeWith op b1 b2) rest
    | _, _ => .rejected (.missingOperand op)

/-- Byte `k` of an instruction whose bits are `w`, bit 0 the least significant bit of the first byte. -/
def tableByte (w k : Nat) : Byte := BitVec.ofNat 8 (w >>> (8 * k))

/-- The instruction the decoder reads from an instruction whose bits are `w`, numbered as spec/opcode_table.json numbers them
(the opcode byte is bits 7..0, the first operand byte bits 15..8); the bits above `nbits` are zero. -/
def decodeTableWord (nbits w : Nat) : Option Instr :=
  let v := w % 2 ^ nbits
  match decode [tableByte v 0, tableByte v 1, tableByte v 2] with
  | .ok i _ => some i
  | .rejected _ => none

/-! ## Encoding -/

/-- The low and the high byte of a 16-bit operand, in the order of the instruction stream (R85). -/
def addrBytes (w : Addr) : List Byte := [w.extractLsb' 0 8, w.extractLsb' 8 8]

/-- The operand bytes of a memory form. -/
def MemForm.bytes : MemForm → List Byte
  | .zp zz | .zpx zz | .zpy zz | .idx zz | .idy zz => [zz]
  | .abs hhll | .abx hhll | .aby hhll => addrBytes hhll

/-- The opcode byte of ORA, AND, EOR, ADC, STA, LDA, CMP and SBC is a base plus the form's offset (R89). `$zz,Y` is no form of
these; it is given the offset of `$zz,X`. -/
def MemForm.accOffset : MemForm → Byte
  | .idx _ => 0x01#8
  | .zp _ => 0x05#8
  | .abs _ => 0x0D#8
  | .idy _ => 0x11#8
  | .zpx _ | .zpy _ => 0x15#8
  | .aby _ => 0x19#8
  | .abx _ => 0x1D#8

/-- The opcode bytes of the memory forms of the other instructions: a base plus the form's offset (R89); an indirect form, which
these do not have, is given the offset of `$zz`. -/
def MemForm.plainOffset : MemForm → Byte
  | .zp _ | .idx _ | .idy _ => 0x04#8
  | .abs _ => 0x0C#8
  | .zpx _ | .zpy _ => 0x14#8
  | .abx _ | .aby _ => 0x1C#8

/-- ORA, AND, EOR, ADC, LDA, CMP, SBC. -/
def encodeAcc (base : Byte) : Source → List Byte
  | .imm v => [base + 0x09#8, v]
  | .mem f => (base + f.accOffset) :: f.bytes

/-- CPX, CPY, LDY: the immediate form is the base itself. -/
def encodeIndex (base : Byte) : Source → List Byte
  | .imm v => [base, v]
  | .mem f => (base + f.plainOffset) :: f.bytes

/-- LDX: the immediate form is 0xA2, the memory forms are two above those of LDY's column. -/
def encodeLdx : Source → List Byte
  | .imm v => [0xA2#8, v]
  | .mem f => (0xA2#8 + f.plainOffset) :: f.bytes

/-- ASL, ROL, LSR, ROR, INC, DEC: the memory forms are `base + 2` plus the form's offset; the accumulator form has a byte of its
own. -/
def encodeModify (accOpcode base : Byte) : Target → List Byte
  | .acc => [accOpcode]
  | .mem f => (base + 0x02#8 + f.plainOffset) :: f.bytes

/-- The opcode byte of a bit form: `32*i + base` (R82). -/
def bitOpcode (i : BitVec 3) (base : BitVec 5) : Byte := i ++ base

/-- SEB and CLB. -/
def encodeBit (i : BitVec 3) (accBase zpBase : BitVec 5) : BitTarget → List Byte
  | .acc => [bitOpcode i accBase]
  | .zp zz => [bitOpcode i zpBase, zz]

/-- The bytes of an instruction, first byte first, by the forms of R81 and the opcode bytes of R82 and R89. -/
def encode : Instr → List Byte
  | .ora f => encodeAcc 0x00#8 f
  | .and f => encodeAcc 0x20#8 f
  | .eor f => encodeAcc 0x40#8 f
  | .adc f => encodeAcc 0x60#8 f
  | .sta f => (0x80#8 + f.accOffset) :: f.bytes
  | .lda f => encodeAcc 0xA0#8 f
  | .cmp f => encodeAcc 0xC0#8 f
  | .sbc f => encodeAcc 0xE0#8 f
  | .cpx f => encodeIndex 0xE0#8 f
  | .cpy f => encodeIndex 0xC0#8 f
  | .ldy f => encodeIndex 0xA0#8 f
  | .ldx f => encodeLdx f
  | .sty f => (0x80#8 + f.plainOffset) :: f.bytes
  | .stx f => (0x82#8 + f.plainOffset) :: f.bytes
  | .bit f => (0x20#8 + f.plainOffset) :: f.bytes
  | .asl f => encodeModify 0x0A#8 0x00#8 f
  | .rol f => encodeModify 0x2A#8 0x20#8 f
  | .lsr f => encodeModify 0x4A#8 0x40#8 f
  | .ror f => encodeModify 0x6A#8 0x60#8 f
  | .dec f => encodeModify 0x1A#8 0xC0#8 f
  | .inc f => encodeModify 0x3A#8 0xE0#8 f
  | .com zz => [0x44#8, zz]
  | .tst zz => [0x64#8, zz]
  | .rrf zz => [0x82#8, zz]
  | .ldm v zz => [0x3C#8, v, zz]
  | .inx => [0xE8#8]
  | .iny => [0xC8#8]
  | .dex => [0xCA#8]
  | .dey => [0x88#8]
  | .tax => [0xAA#8]
  | .tay => [0xA8#8]
  | .txa => [0x8A#8]
  | .tya => [0x98#8]
  | .tsx => [0xBA#8]
  | .txs => [0x9A#8]
  | .pha => [0x48#8]
  | .php => [0x08#8]
  | .pla => [0x68#8]
  | .plp => [0x28#8]
  | .bpl rel => [0x10#8, rel]
  | .bmi rel => [0x30#8, rel]
  | .bvc rel => [0x50#8, rel]
  | .bvs rel => [0x70#8, rel]
  | .bcc rel => [0x90#8, rel]
  | .bcs rel => [0xB0#8, rel]
  | .bne rel => [0xD0#8, rel]
  | .beq rel => [0xF0#8, rel]
  | .bra rel => [0x80#8, rel]
  | .jmp (.abs hhll) => 0x4C#8 :: addrBytes hhll
  | .jmp (.ind hhll) => 0x6C#8 :: addrBytes hhll
  | .jmp (.zpi zz) => [0xB2#8, zz]
  | .jsr (.abs hhll) => 0x20#8 :: addrBytes hhll
  | .jsr (.zpi zz) => [0x02#8, zz]
  | .jsr (.sp zz) => [0x22#8, zz]
  | .rts => [0x60#8]
  | .rti => [0x40#8]
  | .brk signature => [0x00#8, signature]
  | .seb i f => encodeBit i 0x0B#5 0x0F#5 f
  | .clb i f => encodeBit i 0x1B#5 0x1F#5 f
  | .bbs i f rel => encodeBit i 0x03#5 0x07#5 f ++ [rel]
  | .bbc i f rel => encodeBit i 0x13#5 0x17#5 f ++ [rel]
  | .clc => [0x18#8]
  | .sec => [0x38#8]
  | .cli => [0x58#8]
  | .sei => [0x78#8]
  | .cld => [0xD8#8]
  | .sed => [0xF8#8]
  | .clv => [0xB8#8]
  | .clt => [0x12#8]
  | .setT => [0x32#8]
  | .nop => [0xEA#8]
  | .wit => [0xC2#8]
  | .stp => [0x42#8]
  | .undefined op => [op]
  | .refusedOpcode op => [op]

end Sys2Proof
end

