-- ==== Sys2Proof/Config.lean ====
section
/-! DEFINITION. The implementation parameters of spec/00_scope.md R6, as plain data, and the one free value of the model.
The parameters are arguments of the model: State holds a `Config` that no step changes (log 1), so a statement about every
state holds for every value of every parameter. -/

namespace Sys2Proof

/-- The flag values after reset other than I: the parameter `resetFlags` of R6. -/
structure ResetFlags where
  n : Bool
  v : Bool
  t : Bool
  d : Bool
  z : Bool
  c : Bool
  deriving DecidableEq, Repr

/-- What the bus adapter places at an address (spec/20_memory.md R51): plain RAM (a read returns the last byte written), ROM
(a launch image that no write changes), or an oracle location, whose reads the adapter answers with any byte.
DESIGN CHOICE (log 2), safe: the spec leaves the platform's map to the launch. -/
inductive RegionKind where
  | ram
  | rom
  | oracle
  deriving DecidableEq, Repr

/-- One entry of the launch's memory map: the addresses `first` to `last`, both inclusive. -/
structure Region where
  first : Addr
  last  : Addr
  kind  : RegionKind
  deriving DecidableEq, Repr

/-- The meaning a configuration gives to one UNDEFINED opcode byte (spec/46_system.md R292): the byte executes as the admitted
form whose opcode byte is `opcode`, and the instruction is `length` bytes long (bytes beyond the form's own are fetched and
ignored). -/
structure OpcodeMeaning where
  undefinedByte : Byte
  opcode        : Byte
  length        : Nat
  deriving DecidableEq, Repr

/-- The parameters of R6, in its order, and the launch's memory map (R51). -/
structure Config where
  resetVector : Addr
  /-- The vector of maskable line 0; line n uses `baseVector - 2*n`. -/
  baseVector : Addr
  /-- 1 to 15 (`Config.wf`). -/
  numIrqLines : Nat
  hasNmi : Bool
  nmiVector : Addr
  brkVector : Addr
  stackPage : Byte
  /-- The value the entry sequence writes to I: false is the source's reading (conflict C1), true the family's. -/
  entryIValue : Bool
  resetA : Byte
  resetX : Byte
  resetY : Byte
  resetSP : Byte
  resetFlags : ResetFlags
  jmpIndirectPageWrap : Bool
  /-- The UNDEFINED bytes that have a meaning; a byte not listed is refused (the spec's default for every byte). -/
  undefinedOpcodeMeaning : List OpcodeMeaning
  /-- The launch's memory map: the first region that holds an address gives its kind; an address in none is plain RAM. -/
  regions : List Region
  deriving DecidableEq, Repr

/-- FREE VALUE (log 3): the byte an oracle location answers to the bus access with this number. It has no body: nothing can
be proved of it, so a statement about it holds for every byte the adapter may answer (R51, R58). -/
opaque Config.busByte : Nat → Byte

/-- The configuration TC-doc of spec/95_test_vectors.md section 1. DESIGN CHOICE (log 1), unsafe: the values of the parameters the
source leaves open are those of the spec's test configuration. -/
def Config.tcDoc : Config where
  resetVector := 0xFFFE#16
  baseVector := 0xFFFC#16
  numIrqLines := 15
  hasNmi := true
  nmiVector := 0xFFDC#16
  brkVector := 0xFFDE#16
  stackPage := 0x01#8
  entryIValue := false
  resetA := 0x00#8
  resetX := 0x00#8
  resetY := 0x00#8
  resetSP := 0xFF#8
  resetFlags := ⟨false, false, false, false, false, false⟩
  jmpIndirectPageWrap := true
  undefinedOpcodeMeaning := []
  regions := []

/-- TC-fam: TC-doc with the family's value of I after an entry (conflict C1). -/
def Config.tcFam : Config := { Config.tcDoc with entryIValue := true }

end Sys2Proof
end

