-- ==== Sys2Proof/Machine/State.lean ====
section
/-! DEFINITION. The machine's state (spec/10_state.md R46), with the memory behind the bus adapter (spec/20_memory.md R51), the step's access
trace (spec/40_execution.md R115), the parameters (spec/00_scope.md R6) and the reasons a step can stop (R12). -/

namespace Sys2Proof.Machine

/-- The status register P: seven flags, no stored bit 4 (R25, R35). -/
@[ext]
structure Flags where
  /-- bit 7, negative -/
  n : Bool
  /-- bit 6, overflow -/
  v : Bool
  /-- bit 5, X-relative memory operation mode -/
  t : Bool
  /-- bit 3, decimal mode -/
  d : Bool
  /-- bit 2, interrupt disable -/
  i : Bool
  /-- bit 1, zero -/
  z : Bool
  /-- bit 0, carry -/
  c : Bool
  deriving DecidableEq, Repr

/-- The run state (R42). -/
inductive RunState where
  | running
  /-- after WIT (R290) -/
  | waiting
  /-- after STP (R291) -/
  | stopped
  deriving DecidableEq, Repr

/-- One bus access of a step: a `read8` and the byte it returned, or a `write8` (R10, R115). -/
inductive BusAccess where
  | read (address : Addr) (value : Byte)
  | write (address : Addr) (value : Byte)
  deriving DecidableEq, Repr

/-- What plain RAM and ROM hold: (address, byte) pairs in the canonical form `Memory.wf` (Machine/Ops.lean). -/
abbrev Memory := List Host.Cell

/-- The complete core state between steps (R46), then what stands behind the bus and what is recorded of it. -/
@[ext]
structure State where
  /-- A, the accumulator (R21). -/
  a : Byte
  /-- X, an index register (R22). -/
  x : Byte
  /-- Y, an index register (R22). -/
  y : Byte
  /-- S, the stack pointer: the low byte of the address of the next free stack byte (R23). -/
  sp : Byte
  /-- PC: at an instruction boundary the address of the next opcode (R24). -/
  pc : Addr
  /-- P (R25). -/
  p : Flags
  /-- The interrupt line set: bit n is 1 while line n is asserted (R38). -/
  lines : BitVec 15
  /-- The level of the non-maskable line (R41). -/
  nmiLevel : Bool
  /-- The NMI latch (R41). -/
  nmiPending : Bool
  /-- R42. -/
  run : RunState
  /-- Set from the end of an entry sequence to the next opcode fetch (R47). -/
  skipPoll : Bool
  /-- What plain RAM and ROM hold (R51). -/
  mem : Memory
  /-- The bus accesses of the current step, or between steps of the last one, in order (R15, R115). -/
  trace : List BusAccess
  /-- The MODEL's own counter of bus accesses: it picks the free byte an oracle location answers (log 3). -/
  busTick : Nat
  /-- The parameters of R6: no step changes them (log 1). -/
  cfg : Config
  deriving DecidableEq, Repr

/-- The spec's outcome `stuck` (R12): the step relation has no move; the state stays as it is until the host acts. Neither is an
error of the core, and both are safe: no claim about a state after such a step can be proved (log 8). -/
inductive Fault where
  /-- Raised by `step` while `run = waiting` and no interrupt is takeable (R290). Safe. -/
  | stuckWaiting
  /-- Raised by `step` while `run = stopped` (R291); only a reset moves the core. Safe. -/
  | stuckStopped
  deriving DecidableEq, Repr

/-- The spec's outcome `refuse(reason)` (R12): the model has no meaning for what is at PC. -/
inductive Refusal where
  /-- Raised by an arm of `exec` for an instruction that has no meaning yet; no arm is one. Safe. -/
  | notModelled (mnemonic : String)
  /-- Raised by the meaning of an UNDEFINED byte to which the configuration gives no meaning (R292): the byte, and PC, already
  advanced by one at the opcode fetch. Safe: it makes every claim about a run that reaches the byte unprovable. -/
  | undefinedOpcode (op : Byte) (pc : Addr)
  /-- Raised by the meaning of a REFUSED byte, MUL or DIV (R293): the byte, and PC, already advanced by one. Safe. -/
  | refusedOpcode (op : Byte) (pc : Addr)
  deriving DecidableEq, Repr

/-- The machine right after reset (R44, R340) in the configuration TC-doc: I is 1, the core runs, nothing is pending. The memory lists
nothing (log 4), so the two bytes at the reset vector read 0x00, and PC, loaded from them, is 0x0000; the trace holds these two
reads. The values of A, X, Y, S and the flags other than I are the configuration's (log 5); no line is asserted (log 6). -/
def State.reset : State where
  a := Config.tcDoc.resetA
  x := Config.tcDoc.resetX
  y := Config.tcDoc.resetY
  sp := Config.tcDoc.resetSP
  pc := 0x0000#16
  p := { n := Config.tcDoc.resetFlags.n, v := Config.tcDoc.resetFlags.v, t := Config.tcDoc.resetFlags.t,
         d := Config.tcDoc.resetFlags.d, i := true, z := Config.tcDoc.resetFlags.z, c := Config.tcDoc.resetFlags.c }
  lines := 0#15
  nmiLevel := false
  nmiPending := false
  run := .running
  skipPoll := false
  mem := []
  trace := [.read 0xFFFE#16 0x00#8, .read 0xFFFF#16 0x00#8]
  busTick := 0
  cfg := Config.tcDoc

end Sys2Proof.Machine
end

