-- ==== Sys2Proof/Machine/Flags.lean ====
section
/-! DEFINITION. The ALU primitives (spec/41_arith.md R150 to R153), the flag helper SetNZ (spec/40_execution.md R134), the status byte
(spec/10_state.md R34) and the shift and bit transforms of spec/42_logic_shift.md and spec/45_bit_manip.md. Sums and differences
are computed exactly, as integers, and narrowed at the end. -/

namespace Sys2Proof.Machine

/-- The result byte and flags of an add or subtract. -/
structure AluResult where
  r : Byte
  n : Bool
  v : Bool
  z : Bool
  c : Bool
  deriving DecidableEq, Repr

/-- Bit i of a byte is `b.getLsbD i`; this is bit 7. -/
def bit7 (b : Byte) : Bool := b.getLsbD 7

/-- The low nibble, as a number. -/
def lowNibble (b : Byte) : Nat := b.toNat % 16

/-- The high nibble, as a number. -/
def highNibble (b : Byte) : Nat := b.toNat / 16

/-- Binary add (R150). -/
def addBin (a m : Byte) (c : Bool) : AluResult :=
  let s := a.toNat + m.toNat + c.toNat
  let r := BitVec.ofNat 8 s
  { r := r
    n := bit7 r
    v := bit7 a == bit7 m && bit7 r != bit7 a
    z := r == 0#8
    c := decide (s > 0xFF) }

/-- Decimal add (R151): each nibble corrected by +6; N, Z and V of the uncorrected binary sum. -/
def addDec (a m : Byte) (c : Bool) : AluResult :=
  let b := addBin a m c
  let lo0 := lowNibble a + lowNibble m + c.toNat
  let lo := if lo0 > 9 then lo0 + 6 else lo0
  let cl := if lo0 > 9 then 1 else 0
  let hi0 := highNibble a + highNibble m + cl
  let hi := if hi0 > 9 then hi0 + 6 else hi0
  { r := BitVec.ofNat 8 (hi % 16 * 16 + lo % 16), n := b.n, v := b.v, z := b.z, c := decide (hi > 15) }

/-- Binary subtract (R152): the carry is the inverse of a borrow. -/
def subBin (a m : Byte) (c : Bool) : AluResult :=
  let d : Int := (a.toNat : Int) - m.toNat - (1 - c.toNat)
  let r := BitVec.ofInt 8 d
  { r := r
    n := bit7 r
    v := bit7 a != bit7 m && bit7 r != bit7 a
    z := r == 0#8
    c := decide (d ≥ 0) }

/-- Decimal subtract (R153): each nibble corrected by -6 when it borrowed; N, Z and V of the uncorrected binary difference. -/
def subDec (a m : Byte) (c : Bool) : AluResult :=
  let b := subBin a m c
  let lo0 : Int := (lowNibble a : Int) - lowNibble m - (1 - c.toNat)
  let lo := if lo0 < 0 then lo0 - 6 else lo0
  let bl : Int := if lo0 < 0 then 1 else 0
  let hi0 : Int := (highNibble a : Int) - highNibble m - bl
  let hi := if hi0 < 0 then hi0 - 6 else hi0
  { r := BitVec.ofInt 8 (hi % 16 * 16 + lo % 16), n := b.n, v := b.v, z := b.z, c := decide (hi0 ≥ 0) }

/-- SetNZ (R134). -/
def Flags.setNZ (p : Flags) (v : Byte) : Flags := { p with n := bit7 v, z := v == 0#8 }

/-- The flags ADC and SBC write: N, V, Z, C (R154, R155). -/
def Flags.setAlu (p : Flags) (r : AluResult) : Flags := { p with n := r.n, v := r.v, z := r.z, c := r.c }

/-- The flags a compare writes (R156 to R158): C is 1 when there is no borrow, N and Z are those of the difference modulo 256. -/
def Flags.compare (p : Flags) (a m : Byte) : Flags := { p.setNZ (a - m) with c := decide (m.toNat ≤ a.toNat) }

/-- P as a byte, bit 4 given by the pushing operation (R34). -/
def packP (p : Flags) (b : Bool) : Byte :=
  BitVec.ofBool p.n ++ BitVec.ofBool p.v ++ BitVec.ofBool p.t ++ BitVec.ofBool b ++
  BitVec.ofBool p.d ++ BitVec.ofBool p.i ++ BitVec.ofBool p.z ++ BitVec.ofBool p.c

/-- The flags loaded from a byte; bit 4 is discarded (R34). -/
def unpackP (v : Byte) : Flags where
  n := v.getLsbD 7
  v := v.getLsbD 6
  t := v.getLsbD 5
  d := v.getLsbD 3
  i := v.getLsbD 2
  z := v.getLsbD 1
  c := v.getLsbD 0

/-- Shift left by one, a given bit entering bit 0 (ASL, ROL; R184, R186). -/
def shiftLeft (v : Byte) (low : Bool) : Byte := (v <<< 1) ||| BitVec.setWidth 8 (BitVec.ofBool low)

/-- Shift right by one, a given bit entering bit 7 (LSR, ROR; R185, R187). -/
def shiftRight (v : Byte) (high : Bool) : Byte := (v >>> 1) ||| (BitVec.setWidth 8 (BitVec.ofBool high) <<< 7)

/-- The byte with only bit `i` set. -/
def bitMask (i : BitVec 3) : Byte := 1#8 <<< i.toNat

/-- Set bit `i` (R260). -/
def setBit (i : BitVec 3) (v : Byte) : Byte := v ||| bitMask i

/-- Clear bit `i` (R261). -/
def clearBit (i : BitVec 3) (v : Byte) : Byte := v &&& ~~~ bitMask i

/-- Exchange the nibbles (R264). -/
def swapNibbles (v : Byte) : Byte := (v <<< 4) ||| (v >>> 4)

end Sys2Proof.Machine
end

