-- ==== Sys2Proof/Machine/Ops.lean ====
section
/-! DEFINITION. The named operations over memory, the bus, the registers and the stack (spec/20_memory.md, spec/40_execution.md), and taking an
interrupt and returning from one (spec/60_exceptions.md R313 to R325), each written once. -/

namespace Sys2Proof.Machine

/-! ## Memory -/

/-- What a byte of plain memory that nothing has written reads as. DESIGN CHOICE (log 4), unsafe: the source gives no contents
after power-on; 0x00 is the start state of spec/95_test_vectors.md. -/
def Memory.unlisted : Byte := 0x00#8

/-- The byte held at an address. -/
def Memory.read : Memory → Nat → Byte
  | [], _ => Memory.unlisted
  | (k, v) :: rest, a => if k = a then v else Memory.read rest a

/-- Hold a byte at an address, keeping the canonical form. -/
def Memory.write : Memory → Nat → Byte → Memory
  | [], a, v => if v = Memory.unlisted then [] else [(a, v)]
  | (k, w) :: rest, a, v =>
    if a < k then
      if v = Memory.unlisted then (k, w) :: rest else (a, v) :: (k, w) :: rest
    else if a = k then
      if v = Memory.unlisted then rest else (a, v) :: rest
    else
      (k, w) :: Memory.write rest a v

/-- Every address is at least `lo`, addresses strictly rise and stay within the space, and no entry is what an unlisted address
reads as. -/
def Memory.wfFrom : Nat → Memory → Bool
  | _, [] => true
  | lo, (k, v) :: rest => decide (lo ≤ k) && decide (k < 2 ^ 16) && v != Memory.unlisted && Memory.wfFrom (k + 1) rest

/-- The canonical form: equal memories are equal lists. -/
def Memory.wf (m : Memory) : Bool := Memory.wfFrom 0 m

/-! ## Addresses -/

/-- `hi : lo`, the 16-bit value with these bytes (R9). -/
def join (hi lo : Byte) : Addr := hi ++ lo

/-- The high byte of a 16-bit value. -/
def highByte (w : Addr) : Byte := w.extractLsb' 8 8

/-- The low byte of a 16-bit value. -/
def lowByte (w : Addr) : Byte := w.extractLsb' 0 8

/-- The zero-page address `0x00:b` (R84). -/
def zeroPage (b : Byte) : Addr := join 0x00#8 b

/-- `zext_16` (R9). -/
def zext16 (b : Byte) : Addr := b.setWidth 16

/-- `sext_16` (R9): bit 7 copied upwards. -/
def sext16 (b : Byte) : Addr := b.signExtend 16

/-! ## The bus -/

/-- The kind of an address in a memory map: that of the first region that holds it, plain RAM where none does (R51). -/
def regionKind : List Region → Addr → RegionKind
  | [], _ => .ram
  | r :: rest, a => if r.first ≤ a ∧ a ≤ r.last then r.kind else regionKind rest a

/-- The kind of an address on this machine. -/
def State.kindAt (s : State) (a : Addr) : RegionKind := regionKind s.cfg.regions a

/-- The byte plain memory holds at an address; no bus access. -/
def State.peek (s : State) (a : Addr) : Byte := Memory.read s.mem a.toNat

/-- The byte the bus adapter answers to the next read of an address: what memory holds, or at an oracle location a free byte
(R51, R58). -/
def State.busValue (s : State) (a : Addr) : Byte :=
  match s.kindAt a with
  | .oracle => Config.busByte s.busTick
  | .ram | .rom => s.peek a

/-- Record a bus access (R115). -/
def State.record (s : State) (access : BusAccess) : State :=
  { s with trace := s.trace ++ [access], busTick := s.busTick + 1 }

/-- `MemRead(a, 1)`: one `read8` (R10). -/
def State.read8 (s : State) (a : Addr) : Byte × State :=
  (s.busValue a, s.record (.read a (s.busValue a)))

/-- `MemWrite(a, 1, v)`: one `write8` (R10). Plain RAM takes the byte; the adapter accepts the write everywhere (R336). -/
def State.write8 (s : State) (a : Addr) (v : Byte) : State :=
  match s.kindAt a with
  | .ram => { s with mem := Memory.write s.mem a.toNat v }.record (.write a v)
  | .rom | .oracle => s.record (.write a v)

/-- `Read16(a)` (R133): the low byte at `a` first, the high byte at `a + 1` modulo 2^16. -/
def State.read16 (s : State) (a : Addr) : Addr × State :=
  let (lo, s) := s.read8 a
  let (hi, s) := s.read8 (a + 1)
  (join hi lo, s)

/-- `Read16zp(p)` (R133): both bytes in page zero. -/
def State.read16zp (s : State) (p : Byte) : Addr × State :=
  let (lo, s) := s.read8 (zeroPage p)
  let (hi, s) := s.read8 (zeroPage (p + 1))
  (join hi lo, s)

/-! ## Registers and flags -/

/-- `A <- v`. -/
def State.setA (s : State) (v : Byte) : State := { s with a := v }
/-- `X <- v`. -/
def State.setX (s : State) (v : Byte) : State := { s with x := v }
/-- `Y <- v`. -/
def State.setY (s : State) (v : Byte) : State := { s with y := v }
/-- `S <- v`. -/
def State.setSP (s : State) (v : Byte) : State := { s with sp := v }
/-- `PC <- w`. -/
def State.setPC (s : State) (w : Addr) : State := { s with pc := w }
/-- Write the flags. -/
def State.setFlags (s : State) (p : Flags) : State := { s with p := p }
/-- SetNZ (R134). -/
def State.setNZ (s : State) (v : Byte) : State := s.setFlags (s.p.setNZ v)
/-- Write C. -/
def State.setC (s : State) (b : Bool) : State := s.setFlags { s.p with c := b }

/-! ## The stack -/

/-- A stack address: the fixed page and an offset (R23). -/
def State.stackAddr (s : State) (offset : Byte) : Addr := join s.cfg.stackPage offset

/-- `Push(v)` (R130). -/
def State.push (s : State) (v : Byte) : State :=
  let s := s.write8 (s.stackAddr s.sp) v
  s.setSP (s.sp - 1)

/-- `Pull()` (R131). -/
def State.pull (s : State) : Byte × State :=
  let s := s.setSP (s.sp + 1)
  s.read8 (s.stackAddr s.sp)

/-- `PushPC(w)` (R132): high byte first. -/
def State.pushPC (s : State) (w : Addr) : State := (s.push (highByte w)).push (lowByte w)

/-- `PullPC()` (R132). -/
def State.pullPC (s : State) : Addr × State :=
  let (lo, s) := s.pull
  let (hi, s) := s.pull
  (join hi lo, s)

/-- Pull the status byte into the flags (R34, R216, R245). -/
def State.pullFlags (s : State) : State :=
  let (v, s) := s.pull
  s.setFlags (unpackP v)

/-! ## Interrupts -/

/-- The lowest-numbered asserted line (R313); none when no line is asserted. -/
def lowestLine (lines : BitVec 15) : Option Nat := (List.range 15).find? fun n => lines.getLsbD n

/-- The vector of maskable line n (R313). -/
def lineVector (cfg : Config) (n : Nat) : Addr := cfg.baseVector - BitVec.ofNat 16 (2 * n)

/-- The pending vector, a function of the line set (R39, R313). -/
def State.pendingVector (s : State) : Option Addr := (lowestLine s.lines).map (lineVector s.cfg)

/-- The interrupt controller's state (R43, R322). SERVICING lasts exactly one step, the entry sequence, so it is no state between
steps. -/
inductive Controller where
  | idle
  | pending
  deriving DecidableEq, Repr

/-- R322. -/
def State.controller (s : State) : Controller :=
  if s.lines = 0#15 ∧ s.nmiPending = false then .idle else .pending

/-- R314. -/
def State.interruptTakeable (s : State) : Bool :=
  (s.cfg.hasNmi && s.nmiPending) || (s.lines != 0#15 && !s.p.i)

/-- What an entry serves (R320). -/
inductive EntrySource where
  | nmi
  | line (n : Nat)
  | brk
  deriving DecidableEq, Repr

/-- The source selected at a boundary where an interrupt is takeable (R315): the non-maskable line first, then the lowest asserted
line. (With no line asserted the answer is not used.) -/
def State.selectedSource (s : State) : EntrySource :=
  if s.cfg.hasNmi && s.nmiPending then .nmi else .line ((lowestLine s.lines).getD 0)

/-- The vector of a source (R320). -/
def State.entryVector (s : State) : EntrySource → Addr
  | .nmi => s.cfg.nmiVector
  | .line n => lineVector s.cfg n
  | .brk => s.cfg.brkVector

/-- The NMI latch after an entry begins (R320): an NMI entry clears it. -/
def EntrySource.latchAfter (src : EntrySource) (pending : Bool) : Bool :=
  match src with
  | .nmi => false
  | .line _ | .brk => pending

/-- Bit 4 of the status byte an entry pushes (R34): 1 for BRK only. -/
def EntrySource.breakBit : EntrySource → Bool
  | .brk => true
  | .nmi | .line _ => false

/-- The frame of an entry (R320): PC high, PC low, then the status byte, bit 4 of it given. -/
def State.pushFrame (s : State) (breakBit : Bool) : State := (s.pushPC s.pc).push (packP s.p breakBit)

/-- The rest of an entry (R320): write I, read the vector, low byte first, and go there; the next boundary does not poll (R111). -/
def State.goThroughVector (s : State) (vector : Addr) : State :=
  let s := s.setFlags { s.p with i := s.cfg.entryIValue }
  let (target, s) := s.read16 vector
  { s with pc := target, skipPoll := true }

/-- The entry sequence (R320). PC holds the return address: the next instruction's, for BRK the address of BRK plus 2. -/
def State.entry (s : State) (src : EntrySource) : State :=
  let s := { s with nmiPending := src.latchAfter s.nmiPending }
  (s.pushFrame src.breakBit).goThroughVector (s.entryVector src)

/-- The return from a handler (R245, R325): the status byte, then PC, with no adjustment. -/
def State.returnFromInterrupt (s : State) : State :=
  let s := s.pullFlags
  let (target, s) := s.pullPC
  s.setPC target

end Sys2Proof.Machine
end

