-- ==== Sys2Proof/Machine/Operands.lean ====
section
/-! DEFINITION. The addressing forms (spec/40_execution.md R120 to R126), the operand primitives Load, Store and Modify (R127), the routing of
T mode (R128, R129) and the branch primitive (spec/44_control.md R229). -/

namespace Sys2Proof.Machine

/-- The effective address of a memory form, with the pointer reads it makes (R120 to R124). -/
def State.effectiveAddress (s : State) : MemForm → Addr × State
  | .zp zz => (zeroPage zz, s)
  | .zpx zz => (zeroPage (zz + s.x), s)
  | .zpy zz => (zeroPage (zz + s.y), s)
  | .abs hhll => (hhll, s)
  | .abx hhll => (hhll + zext16 s.x, s)
  | .aby hhll => (hhll + zext16 s.y, s)
  | .idx zz => s.read16zp (zz + s.x)
  | .idy zz =>
    let (pointer, s) := s.read16zp zz
    (pointer + zext16 s.y, s)

/-- Load of a memory form (R127): the pointer's reads, then one read of the operand. -/
def State.loadMem (s : State) (f : MemForm) : Byte × State :=
  let (ea, s) := s.effectiveAddress f
  s.read8 ea

/-- Load of a source operand (R127). -/
def State.load (s : State) : Source → Byte × State
  | .imm v => (v, s)
  | .mem f => s.loadMem f

/-- Store of a byte through a memory form (R127): no read of the destination. -/
def State.storeMem (s : State) (f : MemForm) (v : Byte) : State :=
  let (ea, s) := s.effectiveAddress f
  s.write8 ea v

/-- `Modify(f, g)` (R127): one read, then one write of `g v`; the answer is the byte `v` that was read. -/
def State.modify (s : State) (f : Target) (g : Byte → Byte) : Byte × State :=
  match f with
  | .acc => (s.a, s.setA (g s.a))
  | .mem f =>
    let (ea, s) := s.effectiveAddress f
    let (v, s) := s.read8 ea
    (v, s.write8 ea (g v))

/-- The operand of a bit instruction as a read-modify-write operand: A or a zero-page byte (R260). -/
def bitOperand : BitTarget → Target
  | .acc => .acc
  | .zp zz => .mem (.zp zz)

/-- The byte BBS and BBC test (R262): A, or the zero-page byte, read once. -/
def State.loadBitTarget (s : State) : BitTarget → Byte × State
  | .acc => (s.a, s)
  | .zp zz => s.read8 (zeroPage zz)

/-- The first operand of ADC, SBC, AND, ORA, EOR, CMP and LDA (R128): A, or with T set the zero-page byte at X. -/
def State.readDest (s : State) : Byte × State :=
  if s.p.t then s.read8 (zeroPage s.x) else (s.a, s)

/-- The result of ADC, SBC, AND, ORA, EOR and LDA (R128): to A, or with T set to the zero-page byte at X. -/
def State.writeDest (s : State) (r : Byte) : State :=
  if s.p.t then s.write8 (zeroPage s.x) r else s.setA r

/-- Both operands of a routed instruction, in the order of R129: the source operand, then the destination's own byte. The answer is
(destination, source). -/
def State.routedOperands (s : State) (f : Source) : (Byte × Byte) × State :=
  let (m, s) := s.load f
  let (a, s) := s.readDest
  ((a, m), s)

/-- `Branch(cond, rel)` (R229): PC holds PC_next, the address after the instruction. -/
def State.branch (s : State) (cond : Bool) (rel : Byte) : State :=
  if cond then s.setPC (s.pc + sext16 rel) else s

/-- The high byte's address of an absolute indirect pointer (R126): in the pointer's own page when `jmpIndirectPageWrap`. -/
def State.indirectHigh (s : State) (pointer : Addr) : Addr :=
  if s.cfg.jmpIndirectPageWrap then join (highByte pointer) (lowByte pointer + 1) else pointer + 1

/-- The target of `JMP ($hhll)` (R126). -/
def State.readIndirect (s : State) (pointer : Addr) : Addr × State :=
  let (lo, s) := s.read8 pointer
  let (hi, s) := s.read8 (s.indirectHigh pointer)
  (join hi lo, s)

/-- The target of a JMP (R240). -/
def State.jmpTarget (s : State) : JmpTarget → Addr × State
  | .abs hhll => (hhll, s)
  | .ind hhll => s.readIndirect hhll
  | .zpi zz => s.read16zp zz

/-- The target of a JSR (R241 to R243), read before the pushes. -/
def State.jsrTarget (s : State) : JsrTarget → Addr × State
  | .abs hhll => (hhll, s)
  | .zpi zz => s.read16zp zz
  | .sp zz => (join 0xFF#8 zz, s)

end Sys2Proof.Machine
end

