-- ==== Sys2Proof/Machine/Arith.lean ====
section
/-! DEFINITION. Arithmetic, compare, increment and decrement (spec/41_arith.md). -/

namespace Sys2Proof.Machine

/-- The arithmetic of ADC (R154): decimal when D is set. -/
def State.addWith (s : State) (a m : Byte) : AluResult := if s.p.d then addDec a m s.p.c else addBin a m s.p.c

/-- The arithmetic of SBC (R155): decimal when D is set. -/
def State.subWith (s : State) (a m : Byte) : AluResult := if s.p.d then subDec a m s.p.c else subBin a m s.p.c

/-- ADC, add memory to accumulator with carry (R154), routed by T (R128). -/
def execAdc (f : Source) (s : State) : Host.Outcome State Fault Refusal :=
  let ((a, m), s) := s.routedOperands f
  let result := s.addWith a m
  .next ((s.writeDest result.r).setFlags (s.p.setAlu result))

/-- SBC, subtract memory from accumulator with borrow (R155), routed by T (R128). -/
def execSbc (f : Source) (s : State) : Host.Outcome State Fault Refusal :=
  let ((a, m), s) := s.routedOperands f
  let result := s.subWith a m
  .next ((s.writeDest result.r).setFlags (s.p.setAlu result))

/-- CMP, compare memory with accumulator (R156), routed by T; nothing but the flags is written. -/
def execCmp (f : Source) (s : State) : Host.Outcome State Fault Refusal :=
  let ((a, m), s) := s.routedOperands f
  .next (s.setFlags (s.p.compare a m))

/-- Compare a register's byte with memory; T and D are ignored (R157, R158). -/
def State.compareWith (s : State) (r : Byte) (f : Source) : State :=
  let (m, s) := s.load f
  s.setFlags (s.p.compare r m)

/-- CPX, compare memory with X (R157). -/
def execCpx (f : Source) (s : State) : Host.Outcome State Fault Refusal := .next (s.compareWith s.x f)

/-- CPY, compare memory with Y (R158). -/
def execCpy (f : Source) (s : State) : Host.Outcome State Fault Refusal := .next (s.compareWith s.y f)

/-- Change a byte by `g` and set N and Z from the result. -/
def State.modifyNZ (s : State) (f : Target) (g : Byte → Byte) : State :=
  let (v, s) := s.modify f g
  s.setNZ (g v)

/-- INC, increment memory or accumulator by one (R159). -/
def execInc (f : Target) (s : State) : Host.Outcome State Fault Refusal := .next (s.modifyNZ f fun v => v + 1)

/-- DEC, decrement memory or accumulator by one (R160). -/
def execDec (f : Target) (s : State) : Host.Outcome State Fault Refusal := .next (s.modifyNZ f fun v => v - 1)

/-- INX (R161). -/
def execInx (s : State) : Host.Outcome State Fault Refusal := .next ((s.setX (s.x + 1)).setNZ (s.x + 1))

/-- INY (R162). -/
def execIny (s : State) : Host.Outcome State Fault Refusal := .next ((s.setY (s.y + 1)).setNZ (s.y + 1))

/-- DEX (R163). -/
def execDex (s : State) : Host.Outcome State Fault Refusal := .next ((s.setX (s.x - 1)).setNZ (s.x - 1))

/-- DEY (R164). -/
def execDey (s : State) : Host.Outcome State Fault Refusal := .next ((s.setY (s.y - 1)).setNZ (s.y - 1))

end Sys2Proof.Machine
end

