-- ==== Sys2Proof/Machine/BitManip.lean ====
section
/-! DEFINITION. Bit manipulation and nibble swap (spec/45_bit_manip.md). -/

namespace Sys2Proof.Machine

/-- SEB, set bit (R260); no flag is written, T is ignored. -/
def execSeb (i : BitVec 3) (f : BitTarget) (s : State) : Host.Outcome State Fault Refusal := .next (s.modify (bitOperand f) (setBit i)).2

/-- CLB, clear bit (R261); no flag is written, T is ignored. -/
def execClb (i : BitVec 3) (f : BitTarget) (s : State) : Host.Outcome State Fault Refusal := .next (s.modify (bitOperand f) (clearBit i)).2

/-- BBS, branch on bit set (R262). -/
def execBbs (i : BitVec 3) (f : BitTarget) (rel : Byte) (s : State) : Host.Outcome State Fault Refusal :=
  let (v, s) := s.loadBitTarget f
  .next (s.branch (v.getLsbD i.toNat) rel)

/-- BBC, branch on bit clear (R263). -/
def execBbc (i : BitVec 3) (f : BitTarget) (rel : Byte) (s : State) : Host.Outcome State Fault Refusal :=
  let (v, s) := s.loadBitTarget f
  .next (s.branch (!v.getLsbD i.toNat) rel)

/-- RRF, rotate right four: exchange the nibbles of a zero-page byte (R264); no flag is written. -/
def execRrf (zz : Byte) (s : State) : Host.Outcome State Fault Refusal := .next (s.modify (.mem (.zp zz)) swapNibbles).2

end Sys2Proof.Machine
end

