-- ==== Sys2Proof/Machine/Control.lean ====
section
/-! DEFINITION. Control transfer (spec/44_control.md). PC holds PC_next, the address after the instruction, when a meaning runs (R113). -/

namespace Sys2Proof.Machine

/-- BPL, branch if plus (R230). -/
def execBpl (rel : Byte) (s : State) : Host.Outcome State Fault Refusal := .next (s.branch (!s.p.n) rel)

/-- BMI, branch if minus (R231). -/
def execBmi (rel : Byte) (s : State) : Host.Outcome State Fault Refusal := .next (s.branch s.p.n rel)

/-- BVC, branch if overflow clear (R232). -/
def execBvc (rel : Byte) (s : State) : Host.Outcome State Fault Refusal := .next (s.branch (!s.p.v) rel)

/-- BVS, branch if overflow set (R233). -/
def execBvs (rel : Byte) (s : State) : Host.Outcome State Fault Refusal := .next (s.branch s.p.v rel)

/-- BCC, branch if carry clear (R234). -/
def execBcc (rel : Byte) (s : State) : Host.Outcome State Fault Refusal := .next (s.branch (!s.p.c) rel)

/-- BCS, branch if carry set (R235). -/
def execBcs (rel : Byte) (s : State) : Host.Outcome State Fault Refusal := .next (s.branch s.p.c rel)

/-- BNE, branch if not equal (R236). -/
def execBne (rel : Byte) (s : State) : Host.Outcome State Fault Refusal := .next (s.branch (!s.p.z) rel)

/-- BEQ, branch if equal (R237). -/
def execBeq (rel : Byte) (s : State) : Host.Outcome State Fault Refusal := .next (s.branch s.p.z rel)

/-- BRA, branch always (R238). -/
def execBra (rel : Byte) (s : State) : Host.Outcome State Fault Refusal := .next (s.branch true rel)


/-- JMP, jump (R240). -/
def execJmp (f : JmpTarget) (s : State) : Host.Outcome State Fault Refusal :=
  let (target, s) := s.jmpTarget f
  .next (s.setPC target)

/-- JSR, jump to subroutine (R241, R242, R243): a pointer is read before the pushes; the pushed value is the address of the
instruction's last byte. -/
def execJsr (f : JsrTarget) (s : State) : Host.Outcome State Fault Refusal :=
  let (target, s) := s.jsrTarget f
  .next ((s.pushPC (s.pc - 1)).setPC target)

/-- RTS, return from subroutine (R244). -/
def execRts (s : State) : Host.Outcome State Fault Refusal :=
  let (target, s) := s.pullPC
  .next (s.setPC (target + 1))

/-- RTI, return from interrupt (R245). -/
def execRti (s : State) : Host.Outcome State Fault Refusal := .next s.returnFromInterrupt

/-- BRK, software interrupt (R246): the entry sequence with bit 4 set, through `brkVector`; the signature byte is ignored. -/
def execBrk (_signature : Byte) (s : State) : Host.Outcome State Fault Refusal := .next (s.entry .brk)

end Sys2Proof.Machine
end

