-- ==== Sys2Proof/Machine/Fetch.lean ====
section
/-! DEFINITION. Fetching an instruction's bytes (spec/40_execution.md R112, R113) and serving an interrupt at a boundary (R110, R315, R321). -/

namespace Sys2Proof.Machine

/-- Fetch one byte of the instruction stream (R112, R113). -/
def State.fetchByte (s : State) : Byte × State :=
  let (b, s) := s.read8 s.pc
  (b, s.setPC (s.pc + 1))

/-- Fetch the operand bytes of an opcode byte, in address order, and decode the instruction (R113, R88). -/
def State.fetchOperands (s : State) (op : Byte) : Instr × State :=
  match opcodeLength op with
  | 2 =>
    let (b1, s) := s.fetchByte
    (decodeWith op b1 0#8, s)
  | 3 =>
    let (b1, s) := s.fetchByte
    let (b2, s) := s.fetchByte
    (decodeWith op b1 b2, s)
  | _ => (decodeWith op 0#8 0#8, s)

/-- Fetch and ignore bytes of the instruction stream (R292, the length of a configured meaning). -/
def State.fetchIgnored (s : State) : Nat → State
  | 0 => s
  | k + 1 => State.fetchIgnored (s.fetchByte).2 k

/-- A step's access trace starts empty (R115). -/
def State.clearTrace (s : State) : State := { s with trace := [] }

/-- Fetch the next instruction (R110): the poll after an entry is over, the opcode byte, then its operand bytes. -/
def State.fetchInstr (s : State) : Instr × State :=
  let s := { s with skipPoll := false }
  let (op, s) := s.fetchByte
  s.fetchOperands op

/-- Serve the selected interrupt instead of fetching (R110, R315); a waiting core runs again first (R321). -/
def State.serveInterrupt (s : State) : State := { s with run := .running }.entry s.selectedSource

/-- Hold the low `n` bytes of `w` from an address on, least significant byte first. -/
def State.placeBytes (s : State) (w : Nat) (a : Addr) : Nat → State
  | 0 => s
  | n + 1 => State.placeBytes { s with mem := Memory.write s.mem a.toNat (tableByte w 0) } (w >>> 8) (a + 1) n

end Sys2Proof.Machine
end

