-- ==== Sys2Proof/Machine/Logic.lean ====
section
/-! DEFINITION. Logic, test and shift (spec/42_logic_shift.md). -/

namespace Sys2Proof.Machine

/-- A routed instruction that writes `op destination source` and sets N and Z from it (R180 to R182, R200). -/
def State.routedNZ (s : State) (f : Source) (op : Byte → Byte → Byte) : State :=
  let ((a, m), s) := s.routedOperands f
  (s.writeDest (op a m)).setNZ (op a m)

/-- AND, bitwise AND with accumulator (R180), routed by T. -/
def execAnd (f : Source) (s : State) : Host.Outcome State Fault Refusal := .next (s.routedNZ f fun a m => a &&& m)

/-- ORA, bitwise OR with accumulator (R181), routed by T. -/
def execOra (f : Source) (s : State) : Host.Outcome State Fault Refusal := .next (s.routedNZ f fun a m => a ||| m)

/-- EOR, bitwise exclusive OR with accumulator (R182), routed by T. -/
def execEor (f : Source) (s : State) : Host.Outcome State Fault Refusal := .next (s.routedNZ f fun a m => a ^^^ m)

/-- BIT, test bits of memory against accumulator (R183): Z from the AND, N and V from the memory byte; T is ignored. -/
def execBit (f : MemForm) (s : State) : Host.Outcome State Fault Refusal :=
  let (m, s) := s.loadMem f
  .next (s.setFlags { s.p with n := m.getLsbD 7, v := m.getLsbD 6, z := (s.a &&& m) == 0#8 })

/-- COM, complement a zero-page byte (R188). -/
def execCom (zz : Byte) (s : State) : Host.Outcome State Fault Refusal := .next (s.modifyNZ (.mem (.zp zz)) fun v => ~~~v)

/-- TST, test a zero-page byte for negative or zero (R189). -/
def execTst (zz : Byte) (s : State) : Host.Outcome State Fault Refusal :=
  let (m, s) := s.read8 (zeroPage zz)
  .next (s.setNZ m)

/-- A shift or rotate (R184 to R187): change a byte by `g`, C takes the bit `out` of the old byte, N and Z come from the result. -/
def State.shift (s : State) (f : Target) (g : Byte → Byte) (out : Nat) : State :=
  let (v, s) := s.modify f g
  (s.setC (v.getLsbD out)).setNZ (g v)

/-- ASL, arithmetic shift left by one (R184). -/
def execAsl (f : Target) (s : State) : Host.Outcome State Fault Refusal := .next (s.shift f (fun v => shiftLeft v false) 7)

/-- LSR, logical shift right by one (R185). -/
def execLsr (f : Target) (s : State) : Host.Outcome State Fault Refusal := .next (s.shift f (fun v => shiftRight v false) 0)

/-- ROL, rotate left by one through carry (R186). -/
def execRol (f : Target) (s : State) : Host.Outcome State Fault Refusal := .next (s.shift f (fun v => shiftLeft v s.p.c) 7)

/-- ROR, rotate right by one through carry (R187). -/
def execRor (f : Target) (s : State) : Host.Outcome State Fault Refusal := .next (s.shift f (fun v => shiftRight v s.p.c) 0)

end Sys2Proof.Machine
end

