-- ==== Sys2Proof/Machine/LoadStore.lean ====
section
/-! DEFINITION. Loads, stores, transfers and stack operations (spec/43_load_store.md). -/

namespace Sys2Proof.Machine

/-- LDA, load accumulator (R200), routed by T: with T set the byte at X is read, its value discarded, and then written. -/
def execLda (f : Source) (s : State) : Host.Outcome State Fault Refusal := .next (s.routedNZ f fun _ m => m)

/-- LDX, load X (R201); T is ignored. -/
def execLdx (f : Source) (s : State) : Host.Outcome State Fault Refusal :=
  let (m, s) := s.load f
  .next ((s.setX m).setNZ m)

/-- LDY, load Y (R202); T is ignored. -/
def execLdy (f : Source) (s : State) : Host.Outcome State Fault Refusal :=
  let (m, s) := s.load f
  .next ((s.setY m).setNZ m)

/-- LDM, load immediate into zero-page memory (R203); no read of the destination. -/
def execLdm (value zz : Byte) (s : State) : Host.Outcome State Fault Refusal := .next (s.write8 (zeroPage zz) value)

/-- STA, store accumulator (R204); T is ignored. -/
def execSta (f : MemForm) (s : State) : Host.Outcome State Fault Refusal := .next (s.storeMem f s.a)

/-- STX, store X (R205). -/
def execStx (f : MemForm) (s : State) : Host.Outcome State Fault Refusal := .next (s.storeMem f s.x)

/-- STY, store Y (R206). -/
def execSty (f : MemForm) (s : State) : Host.Outcome State Fault Refusal := .next (s.storeMem f s.y)

/-- TAX, transfer A to X (R207). -/
def execTax (s : State) : Host.Outcome State Fault Refusal := .next ((s.setX s.a).setNZ s.a)

/-- TAY, transfer A to Y (R208). -/
def execTay (s : State) : Host.Outcome State Fault Refusal := .next ((s.setY s.a).setNZ s.a)

/-- TXA, transfer X to A (R209); A is written whatever T is. -/
def execTxa (s : State) : Host.Outcome State Fault Refusal := .next ((s.setA s.x).setNZ s.x)

/-- TYA, transfer Y to A (R210); A is written whatever T is. -/
def execTya (s : State) : Host.Outcome State Fault Refusal := .next ((s.setA s.y).setNZ s.y)

/-- TSX, transfer S to X (R211). -/
def execTsx (s : State) : Host.Outcome State Fault Refusal := .next ((s.setX s.sp).setNZ s.sp)

/-- TXS, transfer X to S (R212); no flag is written. -/
def execTxs (s : State) : Host.Outcome State Fault Refusal := .next (s.setSP s.x)

/-- PHA, push accumulator (R213). -/
def execPha (s : State) : Host.Outcome State Fault Refusal := .next (s.push s.a)

/-- PHP, push status with bit 4 set (R214). -/
def execPhp (s : State) : Host.Outcome State Fault Refusal := .next (s.push (packP s.p true))

/-- PLA, pull accumulator (R215). -/
def execPla (s : State) : Host.Outcome State Fault Refusal :=
  let (v, s) := s.pull
  .next ((s.setA v).setNZ v)

/-- PLP, pull status (R216). -/
def execPlp (s : State) : Host.Outcome State Fault Refusal := .next s.pullFlags

end Sys2Proof.Machine
end

