-- ==== Sys2Proof/Machine/System.lean ====
section
/-! DEFINITION. Flag, wait and stop instructions and the REFUSED bytes (spec/46_system.md). -/

namespace Sys2Proof.Machine

/-- CLC, clear carry (R280). -/
def execClc (s : State) : Host.Outcome State Fault Refusal := .next (s.setFlags { s.p with c := false })

/-- SEC, set carry (R281). -/
def execSec (s : State) : Host.Outcome State Fault Refusal := .next (s.setFlags { s.p with c := true })

/-- CLI, clear interrupt disable (R282). -/
def execCli (s : State) : Host.Outcome State Fault Refusal := .next (s.setFlags { s.p with i := false })

/-- SEI, set interrupt disable (R283). -/
def execSei (s : State) : Host.Outcome State Fault Refusal := .next (s.setFlags { s.p with i := true })

/-- CLD, clear decimal mode (R284). -/
def execCld (s : State) : Host.Outcome State Fault Refusal := .next (s.setFlags { s.p with d := false })

/-- SED, set decimal mode (R285). -/
def execSed (s : State) : Host.Outcome State Fault Refusal := .next (s.setFlags { s.p with d := true })

/-- CLV, clear overflow (R286). -/
def execClv (s : State) : Host.Outcome State Fault Refusal := .next (s.setFlags { s.p with v := false })

/-- CLT, clear the T flag (R287). -/
def execClt (s : State) : Host.Outcome State Fault Refusal := .next (s.setFlags { s.p with t := false })

/-- SET, set the T flag (R288). -/
def execSet (s : State) : Host.Outcome State Fault Refusal := .next (s.setFlags { s.p with t := true })

/-- NOP (R289): nothing beyond the opcode fetch. -/
def execNop (s : State) : Host.Outcome State Fault Refusal := .next s

/-- WIT, wait for interrupt (R290): PC already holds the address after WIT. -/
def execWit (s : State) : Host.Outcome State Fault Refusal := .next { s with run := .waiting }

/-- STP, stop (R291). -/
def execStp (s : State) : Host.Outcome State Fault Refusal := .next { s with run := .stopped }

/-- MUL or DIV on some family members (R293): refused whatever the configuration says. PC is already advanced by one. -/
def execRefusedOpcode (op : Byte) (s : State) : Host.Outcome State Fault Refusal := .refused (.refusedOpcode op s.pc)

end Sys2Proof.Machine
end

