-- ==== Sys2Proof/Machine/Undefined.lean ====
section
/-! DEFINITION. The UNDEFINED opcode bytes (spec/46_system.md R292): the parameter `undefinedOpcodeMeaning` gives such a byte an admitted form
with a length, or a refusal. -/

namespace Sys2Proof.Machine

/-- The meaning the configuration gives to an UNDEFINED byte, if it gives one (R292). -/
def meaningOf (cfg : Config) (op : Byte) : Option OpcodeMeaning :=
  cfg.undefinedOpcodeMeaning.find? fun m => m.undefinedByte == op

/-- The meaning of an ADMITTED instruction, for an UNDEFINED byte that executes as one: what `exec` does with it
(Laws/Undefined.lean). A byte that is itself not admitted is no meaning, and is refused. -/
def execAdmitted (i : Instr) (s : State) : Host.Outcome State Fault Refusal :=
  match i with
  -- spec/41_arith.md
  | .adc f => Sys2Proof.Machine.execAdc f s
  | .sbc f => Sys2Proof.Machine.execSbc f s
  | .cmp f => Sys2Proof.Machine.execCmp f s
  | .cpx f => Sys2Proof.Machine.execCpx f s
  | .cpy f => Sys2Proof.Machine.execCpy f s
  | .inc f => Sys2Proof.Machine.execInc f s
  | .dec f => Sys2Proof.Machine.execDec f s
  | .inx => Sys2Proof.Machine.execInx s
  | .iny => Sys2Proof.Machine.execIny s
  | .dex => Sys2Proof.Machine.execDex s
  | .dey => Sys2Proof.Machine.execDey s
  -- spec/42_logic_shift.md
  | .and f => Sys2Proof.Machine.execAnd f s
  | .ora f => Sys2Proof.Machine.execOra f s
  | .eor f => Sys2Proof.Machine.execEor f s
  | .bit f => Sys2Proof.Machine.execBit f s
  | .com zz => Sys2Proof.Machine.execCom zz s
  | .tst zz => Sys2Proof.Machine.execTst zz s
  | .asl f => Sys2Proof.Machine.execAsl f s
  | .lsr f => Sys2Proof.Machine.execLsr f s
  | .rol f => Sys2Proof.Machine.execRol f s
  | .ror f => Sys2Proof.Machine.execRor f s
  -- spec/43_load_store.md
  | .lda f => Sys2Proof.Machine.execLda f s
  | .ldx f => Sys2Proof.Machine.execLdx f s
  | .ldy f => Sys2Proof.Machine.execLdy f s
  | .ldm value zz => Sys2Proof.Machine.execLdm value zz s
  | .sta f => Sys2Proof.Machine.execSta f s
  | .stx f => Sys2Proof.Machine.execStx f s
  | .sty f => Sys2Proof.Machine.execSty f s
  | .tax => Sys2Proof.Machine.execTax s
  | .tay => Sys2Proof.Machine.execTay s
  | .txa => Sys2Proof.Machine.execTxa s
  | .tya => Sys2Proof.Machine.execTya s
  | .tsx => Sys2Proof.Machine.execTsx s
  | .txs => Sys2Proof.Machine.execTxs s
  | .pha => Sys2Proof.Machine.execPha s
  | .php => Sys2Proof.Machine.execPhp s
  | .pla => Sys2Proof.Machine.execPla s
  | .plp => Sys2Proof.Machine.execPlp s
  -- spec/44_control.md
  | .bpl rel => Sys2Proof.Machine.execBpl rel s
  | .bmi rel => Sys2Proof.Machine.execBmi rel s
  | .bvc rel => Sys2Proof.Machine.execBvc rel s
  | .bvs rel => Sys2Proof.Machine.execBvs rel s
  | .bcc rel => Sys2Proof.Machine.execBcc rel s
  | .bcs rel => Sys2Proof.Machine.execBcs rel s
  | .bne rel => Sys2Proof.Machine.execBne rel s
  | .beq rel => Sys2Proof.Machine.execBeq rel s
  | .bra rel => Sys2Proof.Machine.execBra rel s
  | .jmp f => Sys2Proof.Machine.execJmp f s
  | .jsr f => Sys2Proof.Machine.execJsr f s
  | .rts => Sys2Proof.Machine.execRts s
  | .rti => Sys2Proof.Machine.execRti s
  | .brk signature => Sys2Proof.Machine.execBrk signature s
  -- spec/45_bit_manip.md
  | .seb n f => Sys2Proof.Machine.execSeb n f s
  | .clb n f => Sys2Proof.Machine.execClb n f s
  | .bbs n f rel => Sys2Proof.Machine.execBbs n f rel s
  | .bbc n f rel => Sys2Proof.Machine.execBbc n f rel s
  | .rrf zz => Sys2Proof.Machine.execRrf zz s
  -- spec/46_system.md
  | .clc => Sys2Proof.Machine.execClc s
  | .sec => Sys2Proof.Machine.execSec s
  | .cli => Sys2Proof.Machine.execCli s
  | .sei => Sys2Proof.Machine.execSei s
  | .cld => Sys2Proof.Machine.execCld s
  | .sed => Sys2Proof.Machine.execSed s
  | .clv => Sys2Proof.Machine.execClv s
  | .clt => Sys2Proof.Machine.execClt s
  | .setT => Sys2Proof.Machine.execSet s
  | .nop => Sys2Proof.Machine.execNop s
  | .wit => Sys2Proof.Machine.execWit s
  | .stp => Sys2Proof.Machine.execStp s
  -- no admitted instruction
  | .undefined op => .refused (.undefinedOpcode op s.pc)
  | .refusedOpcode op => .refused (.refusedOpcode op s.pc)

/-- An UNDEFINED byte (R292), fetched, PC already advanced by one. Without a meaning in the configuration it is refused, the spec's
default. With one it executes as the admitted form it names: the form's operand bytes are fetched, then the bytes that the
meaning's length has beyond the form's own, which are ignored, and the form's meaning runs. -/
def execUndefined (op : Byte) (s : State) : Host.Outcome State Fault Refusal :=
  match meaningOf s.cfg op with
  | none => .refused (.undefinedOpcode op s.pc)
  | some m =>
    let (i, s) := s.fetchOperands m.opcode
    execAdmitted i (s.fetchIgnored (m.length - i.length))

end Sys2Proof.Machine
end

