-- ==== Sys2Proof/Machine/Step.lean ====
section
/-! DEFINITION. One step of the core (spec/40_execution.md R110): from one instruction boundary to the next. -/

namespace Sys2Proof.Machine

/-- R110: a stopped core is stuck; a waiting one is stuck unless an interrupt is takeable; a running one serves a takeable interrupt,
unless the boundary follows an entry, and otherwise fetches and executes one instruction. -/
def step (s : State) : Host.Outcome State Fault Refusal :=
  match s.run with
  | .stopped => .fault .stuckStopped
  | .waiting => if s.interruptTakeable then .next s.clearTrace.serveInterrupt else .fault .stuckWaiting
  | .running =>
    if !s.skipPoll && s.interruptTakeable then .next s.clearTrace.serveInterrupt
    else
      let (i, s) := s.clearTrace.fetchInstr
      exec i s

/-- The state with the instruction whose bits are `w` (numbered as spec/opcode_table.json numbers them, the bits above `nbits` zero)
stored at PC, three bytes, so that the next step fetches and runs it. The step fetches at PC only if the core is running and no
interrupt is served, and it sees memory only where PC is not an oracle location; where the state is otherwise, the field in the
way is changed, and nothing else is. -/
def State.withFetchWord (s : State) (nbits w : Nat) : State :=
  let placed := s.placeBytes (w % 2 ^ nbits) s.pc 3
  { placed with
    run := .running
    skipPoll := s.skipPoll || s.interruptTakeable
    cfg := if s.kindAt s.pc = .oracle ∨ s.kindAt (s.pc + 1) = .oracle ∨ s.kindAt (s.pc + 2) = .oracle
      then { s.cfg with regions := [] } else s.cfg }

end Sys2Proof.Machine
end

