-- ==== Sys2Proof/Machine/HostMoves.lean ====
section
/-! DEFINITION. What the host and other bus masters may do between two steps (spec/60_exceptions.md R336, spec/70_reset_and_hazards.md R340,
spec/20_memory.md R60). -/

namespace Sys2Proof.Machine

/-- The flags after reset (R44): I is set, the others are the parameter `resetFlags`. -/
def flagsAfterReset (cfg : Config) : Flags where
  n := cfg.resetFlags.n
  v := cfg.resetFlags.v
  t := cfg.resetFlags.t
  d := cfg.resetFlags.d
  i := true
  z := cfg.resetFlags.z
  c := cfg.resetFlags.c

/-- `reset()` (R340): the registers and flags take their reset values, the line levels stay, no memory is written, and PC is loaded
from the reset vector, low byte first. The trace is that of the reset itself. -/
def State.hostReset (s : State) : State :=
  let s := { s with
    a := s.cfg.resetA
    x := s.cfg.resetX
    y := s.cfg.resetY
    sp := s.cfg.resetSP
    p := flagsAfterReset s.cfg
    nmiPending := false
    run := .running
    skipPoll := false
    trace := [] }
  let (target, s) := s.read16 s.cfg.resetVector
  s.setPC target

/-- The line set with one bit changed. -/
def setLineBit (lines : BitVec 15) (line : Nat) (level : Bool) : BitVec 15 :=
  if level then lines ||| (1#15 <<< line) else lines &&& ~~~(1#15 <<< line)

/-- `set_irq_line(line, level)` (R311). There is no move for a line the core does not have (R312). -/
def State.setIrqLine (s : State) (line : Nat) (level : Bool) : Option State :=
  if line < s.cfg.numIrqLines then some { s with lines := setLineBit s.lines line level } else none

/-- `set_nmi_line(level)` (R316): a rising edge sets the latch. There is no move where the line does not exist (R336). -/
def State.setNmiLine (s : State) (level : Bool) : Option State :=
  if s.cfg.hasNmi then
    some { s with nmiPending := s.nmiPending || (!s.nmiLevel && level), nmiLevel := level }
  else none

/-- Another bus master writes a byte of shared plain RAM between two steps (R60); at a ROM or oracle address nothing that the model
holds changes. -/
def State.externalWrite (s : State) (a : Addr) (v : Byte) : State :=
  match s.kindAt a with
  | .ram => { s with mem := Memory.write s.mem a.toNat v }
  | .rom | .oracle => s

/-- The moves of R336 that change the state, and R60's. -/
inductive HostMove where
  | reset
  | setIrqLine (line : Nat) (level : Bool)
  | setNmiLine (level : Bool)
  | externalWrite (a : Addr) (v : Byte)
  deriving DecidableEq, Repr

/-- Apply a move; none where the spec gives the host no such move. -/
def State.hostMove (s : State) : HostMove → Option State
  | .reset => some s.hostReset
  | .setIrqLine line level => s.setIrqLine line level
  | .setNmiLine level => s.setNmiLine level
  | .externalWrite a v => some (s.externalWrite a v)

end Sys2Proof.Machine
end

