-- ==== Sys2Proof/Machine/Run.lean ====
section
/-! DEFINITION. Running the core from outside: `run_for` (spec/40_execution.md R116), and a run in which the core's steps and the host's moves
interleave (spec/60_exceptions.md R336). -/

namespace Sys2Proof.Machine

/-- `run_for(n)` (R116): whole steps while the sum of their cycle counts stays within the budget; `cycleCount` is the OPEN parameter
of R114 (log 9), and `fuel` bounds the number of steps. A step that has no next state ends the run before it. -/
def runFor (cycleCount : State → Nat) : (fuel budget : Nat) → State → State
  | 0, _, s => s
  | fuel + 1, budget, s =>
    if cycleCount s ≤ budget then
      match step s with
      | .next t => runFor cycleCount fuel (budget - cycleCount s) t
      | .fault _ | .refused _ => s
    else s

/-- One event of a run: a step of the core or a move of the host. -/
inductive Event where
  | step
  | host (move : HostMove)
  deriving DecidableEq, Repr

/-- The state after an event, if the core or the host has that move. -/
def State.after (s : State) : Event → Option State
  | .step =>
    match step s with
    | .next t => some t
    | .fault _ | .refused _ => none
  | .host move => s.hostMove move

end Sys2Proof.Machine
end

