-- ==== Sys2Proof/Safety.lean ====
section
/-! DEFINITION. The invariant of the machine, and what counts as a safe run: one in which the core is never refused. -/

namespace Sys2Proof

open Machine

/-- The parameters are within the ranges of spec/00_scope.md R6: 1 to 15 maskable lines, and every configured meaning of an
UNDEFINED byte is an admitted form with a length that holds it. -/
def Config.wf (cfg : Config) : Bool :=
  decide (1 ≤ cfg.numIrqLines) && decide (cfg.numIrqLines ≤ 15) &&
  cfg.undefinedOpcodeMeaning.all fun m =>
    undefinedBytes.contains m.undefinedByte && (decodeWith m.opcode 0#8 0#8).admitted && decide (opcodeLength m.opcode ≤ m.length)

namespace Machine

/-- Only lines the core has are asserted (spec/10_state.md R38). -/
def State.linesValid (s : State) : Bool :=
  (List.range 15).all fun n => decide (n < s.cfg.numIrqLines) || !s.lines.getLsbD n

/-- The invariant: the parameters are in range, memory is canonical, only existing lines are asserted, the NMI latch is used only
where the line exists (R41), and only a running core is at the boundary after an entry (R47, R321). -/
def State.Inv (s : State) : Prop :=
  Config.wf s.cfg = true ∧ Memory.wf s.mem = true ∧ s.linesValid = true ∧
  (s.nmiPending = true → s.cfg.hasNmi = true) ∧ (s.skipPoll = true → s.run = .running)

/-- `t` is `s` after bus reads alone: the access trace and the access counter may differ, nothing else does. -/
def State.ReadsOnly (s t : State) : Prop := ∃ tr n, t = { s with trace := tr, busTick := n }

/-- `t` is `s` after bus accesses alone: memory, the access trace and the access counter may differ, nothing else does. -/
def State.BusOnly (s t : State) : Prop := ∃ m tr n, t = { s with mem := m, trace := tr, busTick := n }

/-- The step is not refused. A stuck step is safe: the core waits for the host (R12). -/
def State.stepIsSafe (s : State) : Prop := ∀ r, step s ≠ .refused r

/-- The states a run can reach from a state, the core's steps and the host's moves interleaved. -/
inductive Reachable (s : State) : State → Prop where
  | start : Reachable s s
  | after {t u : State} (e : Event) (h : Reachable s t) (he : t.after e = some u) : Reachable s u

/-- A safe run: no reachable state's step is refused. -/
def SafeFrom (s : State) : Prop := ∀ t, Reachable s t → t.stepIsSafe

end Machine

end Sys2Proof
end

