-- ==== Sys2Proof/Certificates/Slice0/Obligations.lean ====
section
/-! DEFINITION. The statements for the provers, each named by what it states. Every statement about an instruction is about `exec`, that is from
the state after the instruction's bytes are fetched (PC holds PC_next); `StepExecutesDecodedInstruction` carries it to a step.
What every statement takes from the model and not from the spec: `busTick` is the model's own counter, and what an oracle location
answers is a free byte picked by it (log 3); `trace` holds the accesses of one step (log 7); a write changes plain RAM alone, and ROM
keeps its image (log 2). A clause on one of these is the model's choice. -/

open Sys2Proof Sys2Proof.Machine

namespace Sys2Proof.Certificates

/-! ## The shapes of effects, shared by the statements -/

/-- `t`'s memory is `s`'s, except that plain RAM at `a` holds `v` (spec/20_memory.md R51). That ROM keeps its image and that an oracle
location stores nothing are the model's choice (log 2). -/
def StoresAt (s t : State) (a : Addr) (v : Byte) : Prop :=
  ∀ b, t.peek b = if b = a ∧ s.kindAt a = .ram then v else s.peek b

/-- Every byte of memory reads as before. -/
def SameMemory (s t : State) : Prop := ∀ b, t.peek b = s.peek b

/-- `v` is a byte the bus may answer at `a` when memory is as in `s`: the byte held, unless `a` is an oracle location. -/
def Answers (s : State) (a : Addr) (v : Byte) : Prop := s.kindAt a ≠ .oracle → v = s.peek a

/-- The flags after SetNZ (R134), written out. -/
def nzFlags (p : Flags) (v : Byte) : Flags := { p with n := v.getLsbD 7, z := decide (v = 0#8) }

/-- The flags after comparing `r` with `m` (R156 to R158), written out. -/
def compareFlags (p : Flags) (r m : Byte) : Flags :=
  { p with n := (r - m).getLsbD 7, z := decide (r = m), c := decide (m.toNat ≤ r.toNat) }

/-- The byte the bus answers to fetch number `k` of an instruction at PC, `k` accesses from now: what memory holds there, or at an
oracle location a free byte (R51, R113). -/
def fetchedByte (s : State) (k : Nat) : Byte := { s with busTick := s.busTick + k }.busValue (s.pc + BitVec.ofNat 16 k)

/-- The effect of a routed instruction (R128, R129): with T clear on A, with T set on the zero-page byte at X. `result` and `flags` are
functions of the first and the second operand; `writes` is false for CMP. -/
def RoutedEffect (s t : State) (f : Source) (writes : Bool) (result : Byte → Byte → Byte) (flags : Byte → Byte → Flags) : Prop :=
  let m := (s.load f).1
  let z := zeroPage s.x
  let d := if s.p.t then (s.load f).2.busValue z else s.a
  t.p = flags d m ∧
  t.a = (if writes = true ∧ s.p.t = false then result d m else s.a) ∧
  t.trace = (s.load f).2.trace ++
    (if s.p.t then (.read z d :: if writes then [.write z (result d m)] else []) else []) ∧
  (∀ b, t.peek b = if writes = true ∧ s.p.t = true ∧ b = z ∧ s.kindAt z = .ram then result d m else s.peek b) ∧
  (s.p.t = true → Answers s z d) ∧
  t = { s with a := t.a, p := t.p, mem := t.mem, trace := t.trace, busTick := t.busTick }

/-- The effect of a read-modify-write instruction (R127): A is changed by `g`, or the byte at the effective address is read once and
written once. `flags` is a function of the byte that was read. -/
def ModifyEffect (s t : State) (f : Target) (g : Byte → Byte) (flags : Byte → Flags) : Prop :=
  match f with
  | .acc => t = { s with a := g s.a, p := flags s.a }
  | .mem form =>
    let ea := (s.effectiveAddress form).1
    ∃ v, Answers s ea v ∧ t.p = flags v ∧
      t.trace = (s.effectiveAddress form).2.trace ++ [.read ea v, .write ea (g v)] ∧
      StoresAt s t ea (g v) ∧
      t = { s with p := t.p, mem := t.mem, trace := t.trace, busTick := t.busTick }

/-- The effect of a store of `v` through a memory form: one write, no read of the destination. -/
def StoreEffect (s t : State) (f : MemForm) (v : Byte) : Prop :=
  let ea := (s.effectiveAddress f).1
  t.trace = (s.effectiveAddress f).2.trace ++ [.write ea v] ∧
  StoresAt s t ea v ∧
  t = { s with mem := t.mem, trace := t.trace, busTick := t.busTick }

/-- The effect of an entry (R320) from a state whose PC is the return address: three stack writes, two vector reads, in this order. -/
def EntryEffect (s t : State) (src : EntrySource) (vec : Addr) (breakBit : Bool) : Prop :=
  let at0 := s.cfg.stackPage ++ s.sp
  let at1 := s.cfg.stackPage ++ (s.sp - 1)
  let at2 := s.cfg.stackPage ++ (s.sp - 2)
  ∃ lo hi, t.trace = s.trace ++
      [.write at0 (highByte s.pc), .write at1 (lowByte s.pc), .write at2 (packP s.p breakBit), .read vec lo, .read (vec + 1) hi] ∧
    Answers t vec lo ∧ Answers t (vec + 1) hi ∧
    t.pc = hi ++ lo ∧ t.sp = s.sp - 3 ∧ t.p = { s.p with i := s.cfg.entryIValue } ∧ t.skipPoll = true ∧
    t.nmiPending = (if src = .nmi then false else s.nmiPending) ∧
    (∀ b, b ≠ at0 → b ≠ at1 → b ≠ at2 → t.peek b = s.peek b) ∧
    (s.kindAt at0 = .ram → t.peek at0 = highByte s.pc) ∧
    (s.kindAt at1 = .ram → t.peek at1 = lowByte s.pc) ∧
    (s.kindAt at2 = .ram → t.peek at2 = packP s.p breakBit) ∧
    t = { s with
      pc := t.pc, sp := t.sp, p := t.p, nmiPending := t.nmiPending, skipPoll := t.skipPoll
      mem := t.mem, trace := t.trace, busTick := t.busTick }

/-- The vector of an entry (R320): line n's is `baseVector - 2 * n` modulo 2^16. -/
def vectorAddress (cfg : Config) : EntrySource → Addr
  | .nmi => cfg.nmiVector
  | .line n => BitVec.ofInt 16 ((cfg.baseVector.toNat : Int) - 2 * n)
  | .brk => cfg.brkVector

/-- The three stack addresses an entry uses are plain RAM. -/
def EntryStackIsRam (s : State) : Prop :=
  s.kindAt (s.cfg.stackPage ++ s.sp) = .ram ∧ s.kindAt (s.cfg.stackPage ++ (s.sp - 1)) = .ram ∧
  s.kindAt (s.cfg.stackPage ++ (s.sp - 2)) = .ram

/-- The value of two BCD digits (R165). -/
def dec (v : Byte) : Nat := 10 * (v.toNat / 16) + v.toNat % 16

/-- Both nibbles are decimal digits (R165). -/
def isBcd (v : Byte) : Prop := v.toNat / 16 ≤ 9 ∧ v.toNat % 16 ≤ 9

/-- The sum ADC takes (R154). -/
def adcOf (s : State) (a m : Byte) : AluResult := if s.p.d then addDec a m s.p.c else addBin a m s.p.c

/-- The difference SBC takes (R155). -/
def sbcOf (s : State) (a m : Byte) : AluResult := if s.p.d then subDec a m s.p.c else subBin a m s.p.c

/-- The four flags ADC and SBC write. -/
def aluFlags (p : Flags) (r : AluResult) : Flags := { p with n := r.n, v := r.v, z := r.z, c := r.c }

/-- Steps lead from `s` to `t`, made from the states of `path` in order. -/
def StepPath (s : State) : List State → State → Prop
  | [], t => s = t
  | u :: rest, t => u = s ∧ ∃ v, step u = .next v ∧ StepPath v rest t

/-- An outcome's next state with the interrupt inputs set to given values. -/
def withInputs (lines : BitVec 15) (level : Bool) : Host.Outcome State Fault Refusal → Host.Outcome State Fault Refusal
  | .next t => .next { t with lines := lines, nmiLevel := level }
  | .fault r => .fault r
  | .refused r => .refused r

end Sys2Proof.Certificates

open Sys2Proof.Certificates

/-! ## Decoding and encoding -/

/-- Words written out from the encodings of spec/30_encoding.md R81, R82 and R89 decode to the instructions they stand for. -/
def Obligations.SampleWordsDecodeAsSpecified : Prop :=
  decode [0x69#8, 0x05#8] = .ok (.adc (.imm 0x05#8)) [] ∧
  decode [0x71#8, 0x40#8] = .ok (.adc (.mem (.idy 0x40#8))) [] ∧
  decode [0xBD#8, 0xF0#8, 0xFF#8] = .ok (.lda (.mem (.abx 0xFFF0#16))) [] ∧
  decode [0x3C#8, 0x5A#8, 0x20#8] = .ok (.ldm 0x5A#8 0x20#8) [] ∧
  decode [0x47#8, 0x10#8, 0x05#8] = .ok (.bbs 2#3 (.zp 0x10#8) 0x05#8) [] ∧
  decode [0xF3#8, 0xFE#8] = .ok (.bbc 7#3 .acc 0xFE#8) [] ∧
  decode [0x6F#8, 0x20#8, 0x60#8] = .ok (.seb 3#3 (.zp 0x20#8)) [0x60#8] ∧
  decode [0x6C#8, 0xFF#8, 0x12#8] = .ok (.jmp (.ind 0x12FF#16)) [] ∧
  decode [0x22#8, 0x80#8] = .ok (.jsr (.sp 0x80#8)) [] ∧
  decode [0x0A#8] = .ok (.asl .acc) [] ∧
  decode [0x04#8] = .ok (.undefined 0x04#8) []

/-- Decode of encode is the instruction, with every operand at every value, and whatever follows it. -/
def Obligations.DecodeOfEncodeIsTheInstruction : Prop :=
  ∀ (i : Instr) (rest : List Byte), i.wf = true → decode (encode i ++ rest) = .ok i rest

/-- Every decoded instruction is well formed, and its encoding is the bytes it was decoded from: each byte sequence has one meaning. -/
def Obligations.EncodeOfDecodeIsTheBytes : Prop :=
  ∀ (bytes rest : List Byte) (i : Instr), decode bytes = .ok i rest → i.wf = true ∧ encode i ++ rest = bytes

/-- The length is a function of the opcode byte alone, 1 to 3, and the bytes of an instruction decode exactly when that many stand
there. -/
def Obligations.LengthIsFixedByTheOpcodeByte : Prop :=
  ∀ (op b1 b2 : Byte), (decodeWith op b1 b2).length = opcodeLength op ∧ 1 ≤ opcodeLength op ∧ opcodeLength op ≤ 3 ∧
    ∀ rest : List Byte, (∃ i rest', decode (op :: rest) = .ok i rest' ∧ i.length = opcodeLength op ∧
      rest' = rest.drop (opcodeLength op - 1)) ↔ opcodeLength op - 1 ≤ rest.length

/-- 229 opcode bytes are admitted, the 25 of R90 are UNDEFINED and 0x62 and 0xE2 are REFUSED. -/
def Obligations.OpcodeMapCoversAllBytes : Prop :=
  ((List.range 256).filter fun n => (decodeWith (BitVec.ofNat 8 n) 0#8 0#8).admitted).length = 229 ∧
  (∀ op ∈ undefinedBytes, decodeWith op 0#8 0#8 = .undefined op) ∧ undefinedBytes.length = 25 ∧
  (∀ op ∈ refusedBytes, decodeWith op 0#8 0#8 = .refusedOpcode op) ∧ refusedBytes = [0x62#8, 0xE2#8]

/-- Opcode bits 7:5 hold the bit index and bits 4:0 the operation, for each of the eight bit operations (R82). -/
def Obligations.BitIndexIsInOpcodeBitsSevenToFive : Prop :=
  ∀ (i : BitVec 3) (zz rel : Byte),
    (encode (.bbs i .acc rel)).map BitVec.toNat = [32 * i.toNat + 0x03, rel.toNat] ∧
    (encode (.bbc i .acc rel)).map BitVec.toNat = [32 * i.toNat + 0x13, rel.toNat] ∧
    (encode (.bbs i (.zp zz) rel)).map BitVec.toNat = [32 * i.toNat + 0x07, zz.toNat, rel.toNat] ∧
    (encode (.bbc i (.zp zz) rel)).map BitVec.toNat = [32 * i.toNat + 0x17, zz.toNat, rel.toNat] ∧
    (encode (.seb i .acc)).map BitVec.toNat = [32 * i.toNat + 0x0B] ∧
    (encode (.clb i .acc)).map BitVec.toNat = [32 * i.toNat + 0x1B] ∧
    (encode (.seb i (.zp zz))).map BitVec.toNat = [32 * i.toNat + 0x0F, zz.toNat] ∧
    (encode (.clb i (.zp zz))).map BitVec.toNat = [32 * i.toNat + 0x1F, zz.toNat]

/-! ## The step -/

/-- A step runs the decoded instruction: when the core runs, no interrupt is served, and the bytes the bus answers to the fetches at PC
decode to `i`, the step is `exec i` from the state with those bytes read: PC moved past them, the trace of their reads alone, and
`skipPoll` cleared (R110 to R113).
`busTick` is the model's own counter (log 3), and that `trace` starts anew with each step is its choice (log 7). -/
def Obligations.StepExecutesDecodedInstruction : Prop :=
  ∀ (s : State) (i : Instr), s.run = .running → (s.skipPoll = true ∨ s.interruptTakeable = false) →
    decode ((List.range i.length).map (fetchedByte s)) = .ok i [] →
    step s = exec i { s with
      skipPoll := false
      pc := s.pc + BitVec.ofNat 16 i.length
      trace := (List.range i.length).map fun k => .read (s.pc + BitVec.ofNat 16 k) (fetchedByte s k)
      busTick := s.busTick + i.length }

/-- A stopped core has no move, whatever interrupt is pending (R291); a waiting one has none while nothing is takeable (R290).
That `stuck` is a named fault is the model's form of it (log 8). -/
def Obligations.StoppedAndWaitingCoresAreStuck : Prop :=
  ∀ s : State, (s.run = .stopped → step s = .fault .stuckStopped) ∧
    (s.run = .waiting → s.interruptTakeable = false → step s = .fault .stuckWaiting)

/-- At a boundary with a takeable interrupt, of a running core that is not just after an entry or of a waiting one, the step is the
entry sequence of the non-maskable line if it is pending, else of the lowest asserted line (R110, R315, R320, R321). -/
def Obligations.StepServesTheSelectedInterrupt : Prop :=
  ∀ s : State, Memory.wf s.mem = true → s.interruptTakeable = true →
    (s.run = .running ∧ s.skipPoll = false ∨ s.run = .waiting) →
    ∃ t, step s = .next t ∧ t.run = .running ∧
      ((s.cfg.hasNmi = true ∧ s.nmiPending = true ∧
          EntryEffect { s with trace := [], run := .running } t .nmi (vectorAddress s.cfg .nmi) false) ∨
       (¬(s.cfg.hasNmi = true ∧ s.nmiPending = true) ∧ ∃ n, n < 15 ∧ s.lines.getLsbD n = true ∧
          (∀ m, m < n → s.lines.getLsbD m = false) ∧
          EntryEffect { s with trace := [], run := .running } t (.line n) (vectorAddress s.cfg (.line n)) false))

/-- The vector is that of the lowest-numbered asserted line, `baseVector - 2 * n`; there is none when no line is asserted; and
deasserting another line never changes it (R313). -/
def Obligations.LowestAssertedLineGivesTheVector : Prop :=
  ∀ s : State, (s.lines = 0#15 → s.pendingVector = none) ∧
    ∀ n, n < 15 → s.lines.getLsbD n = true → (∀ m, m < n → s.lines.getLsbD m = false) →
      s.pendingVector = some (BitVec.ofInt 16 ((s.cfg.baseVector.toNat : Int) - 2 * n)) ∧
      ∀ k t, k ≠ n → s.setIrqLine k false = some t → t.pendingVector = s.pendingVector

/-- When an interrupt is takeable (R314), and the controller's state read off the lines and the NMI latch (R322). -/
def Obligations.InterruptStateIsReadOffTheInputs : Prop :=
  ∀ s : State,
    (s.interruptTakeable = true ↔ (s.cfg.hasNmi = true ∧ s.nmiPending = true) ∨ (∃ n, n < 15 ∧ s.lines.getLsbD n = true) ∧ s.p.i = false) ∧
    (s.controller = .idle ↔ (∀ n, s.lines.getLsbD n = false) ∧ s.nmiPending = false) ∧
    (s.controller = .pending ↔ (∃ n, s.lines.getLsbD n = true) ∨ s.nmiPending = true)

/-- While I is 1 the step does not depend on the interrupt lines: a masked line changes nothing but itself. -/
def Obligations.MaskedLinesDoNotAffectTheStep : Prop :=
  ∀ (s : State) (lines : BitVec 15) (level : Bool), s.p.i = true →
    step { s with lines := lines, nmiLevel := level } = withInputs lines level (step s)

/-- Every admitted instruction, in every form, answers a next state from every state: no instruction raises an exception, faults or is
refused. -/
def Obligations.EveryAdmittedInstructionCompletes : Prop :=
  ∀ (i : Instr) (s : State), i.admitted = true → ∃ t, exec i s = .next t

/-- With parameters in range a step is refused only when the byte fetched at PC is an UNDEFINED one to which the configuration gives
no meaning, or a REFUSED one, with that byte and the advanced PC as the reason (R292, R293).
What a refusal carries is the model's choice (log 13). -/
def Obligations.OnlyUnadmittedBytesAreRefused : Prop :=
  ∀ (s : State) (r : Refusal), Config.wf s.cfg = true → step s = .refused r →
    (fetchedByte s 0 ∈ undefinedBytes ∧ meaningOf s.cfg (fetchedByte s 0) = none ∧ r = .undefinedOpcode (fetchedByte s 0) (s.pc + 1)) ∨
    (fetchedByte s 0 ∈ refusedBytes ∧ r = .refusedOpcode (fetchedByte s 0) (s.pc + 1))

/-! ## Invariants -/

/-- Every step keeps the invariant, from every state that meets it.
The canonical form of memory is the model's own (log 4). -/
def Obligations.StepKeepsTheInvariant : Prop :=
  ∀ s t : State, s.Inv → step s = .next t → t.Inv

/-- Every host move keeps the invariant.
The move `externalWrite` is the model's form of another bus master's write (log 14). -/
def Obligations.HostMovesKeepTheInvariant : Prop :=
  ∀ (s t : State) (move : HostMove), s.Inv → s.hostMove move = some t → t.Inv

/-- The reset state meets the invariant.
The values of `State.reset` that the spec leaves open are the model's choice (logs 1, 4, 5, 6). -/
def Obligations.ResetMeetsTheInvariant : Prop := State.reset.Inv

/-- No step changes the parameters, the line set or the level of the non-maskable line; a step clears the NMI latch only by serving
it, and never sets it. -/
def Obligations.StepsLeaveTheHostsStateAlone : Prop :=
  ∀ s t : State, step s = .next t → t.cfg = s.cfg ∧ t.lines = s.lines ∧ t.nmiLevel = s.nmiLevel ∧
    (t.nmiPending = s.nmiPending ∨
      (s.cfg.hasNmi = true ∧ s.nmiPending = true ∧ t.nmiPending = false ∧ t.skipPoll = true))

/-! ## Reset and the host's moves -/

/-- Reset, from every state: the register and flag values of R44, the reads of the two vector bytes, and nothing else changed.
`busTick` is the model's own counter (log 3), and `trace` holding these two reads is its choice (log 7). -/
def Obligations.ResetLoadsTheDocumentedState : Prop :=
  ∀ s : State, ∃ lo hi, Answers s s.cfg.resetVector lo ∧ Answers s (s.cfg.resetVector + 1) hi ∧
    s.hostReset = { s with
      a := s.cfg.resetA, x := s.cfg.resetX, y := s.cfg.resetY, sp := s.cfg.resetSP, pc := hi ++ lo
      p := { n := s.cfg.resetFlags.n, v := s.cfg.resetFlags.v, t := s.cfg.resetFlags.t, d := s.cfg.resetFlags.d, i := true,
             z := s.cfg.resetFlags.z, c := s.cfg.resetFlags.c }
      nmiPending := false, run := .running, skipPoll := false
      trace := [.read s.cfg.resetVector lo, .read (s.cfg.resetVector + 1) hi], busTick := s.busTick + 2 }

/-- The reset state is a reset of itself, but for the model's access counter: it is what `reset()` leaves in the default
configuration.
The values of `State.reset` that the spec leaves open are the model's choice (logs 1, 4, 5, 6). -/
def Obligations.ResetStateIsWhatResetLeaves : Prop :=
  State.reset.hostReset = { State.reset with busTick := 2 } ∧ State.reset.p.i = true ∧ State.reset.run = .running ∧
  State.reset.nmiPending = false ∧ State.reset.skipPoll = false

/-- `set_irq_line` changes exactly its line's bit; there is no move for a line the core does not have (R311, R312). -/
def Obligations.SetIrqLineSetsItsLineAlone : Prop :=
  ∀ (s : State) (line : Nat) (level : Bool), s.cfg.numIrqLines ≤ 15 →
    (s.cfg.numIrqLines ≤ line → s.setIrqLine line level = none) ∧
    (line < s.cfg.numIrqLines → ∃ t, s.setIrqLine line level = some t ∧ t = { s with lines := t.lines } ∧
      ∀ n, n < 15 → t.lines.getLsbD n = if n = line then level else s.lines.getLsbD n)

/-- `set_nmi_line`: a rising edge sets the latch, no other call does, and no call clears it (R316). -/
def Obligations.OnlyARisingEdgeRequestsTheNmi : Prop :=
  ∀ (s : State) (level : Bool),
    (s.cfg.hasNmi = false → s.setNmiLine level = none) ∧
    (s.cfg.hasNmi = true → ∃ t, s.setNmiLine level = some t ∧
      t = { s with nmiLevel := level, nmiPending := t.nmiPending } ∧
      (t.nmiPending = true ↔ s.nmiPending = true ∨ (s.nmiLevel = false ∧ level = true)))

/-- `run_for(n)` performs whole steps while the sum of their cycle counts stays within n (R116): the sum is within n, and the run ends
only where the bound on the steps is used up, the next step's count would exceed what is left, or the core has no step.
`runFor` taking the counts and a bound on the steps as arguments is the model's form of it (log 9). -/
def Obligations.RunForStepsWhileWithinItsBudget : Prop :=
  ∀ (cycleCount : State → Nat) (fuel budget : Nat) (s : State),
    ∃ path : List State, let last := runFor cycleCount fuel budget s
      StepPath s path last ∧ path.length ≤ fuel ∧ (path.map cycleCount).sum ≤ budget ∧
      (path.length = fuel ∨ budget < (path.map cycleCount).sum + cycleCount last ∨ ∀ t, step last ≠ .next t)

/-! ## The arithmetic primitives -/

/-- Binary add: the exact sum, carry beyond 8 bits, overflow of the signed operands (R150). -/
def Obligations.AddBinIsTheExactSum : Prop :=
  ∀ (a m : Byte) (c : Bool), let r := addBin a m c
    r.r.toNat + 256 * r.c.toNat = a.toNat + m.toNat + c.toNat ∧
    (r.z = true ↔ r.r = 0#8) ∧ r.n = r.r.getLsbD 7 ∧
    (r.v = true ↔ (a.toInt + m.toInt + c.toNat < -128 ∨ a.toInt + m.toInt + c.toNat > 127)) ∧
    r.v = (~~~(a ^^^ m) &&& (a ^^^ r.r)).getLsbD 7

/-- Binary subtract: the exact difference, C the inverse of a borrow, overflow of the signed operands (R152). -/
def Obligations.SubBinIsTheExactDifference : Prop :=
  ∀ (a m : Byte) (c : Bool), let r := subBin a m c
    (r.r.toNat : Int) = a.toNat - m.toNat - (1 - c.toNat) + 256 * (1 - r.c.toNat) ∧
    (r.z = true ↔ r.r = 0#8) ∧ r.n = r.r.getLsbD 7 ∧
    (r.v = true ↔ (a.toInt - m.toInt - (1 - c.toNat) < -128 ∨ a.toInt - m.toInt - (1 - c.toNat) > 127)) ∧
    r.v = ((a ^^^ m) &&& (a ^^^ r.r)).getLsbD 7

/-- On valid BCD operands decimal add and subtract are the decimal sum and difference modulo 100, with their carry and borrow, and
their N, Z and V are those of the uncorrected binary result (R165). -/
def Obligations.DecimalArithmeticOnBcdOperands : Prop :=
  ∀ (a m : Byte) (c : Bool), isBcd a → isBcd m →
    (let r := addDec a m c
     dec r.r = (dec a + dec m + c.toNat) % 100 ∧ isBcd r.r ∧ (r.c = true ↔ dec a + dec m + c.toNat ≥ 100) ∧
     r.n = (addBin a m c).n ∧ r.z = (addBin a m c).z ∧ r.v = (addBin a m c).v) ∧
    (let r := subDec a m c
     (dec r.r : Int) = ((dec a : Int) - dec m - (1 - c.toNat)) % 100 ∧ isBcd r.r ∧
     (r.c = true ↔ (dec a : Int) - dec m - (1 - c.toNat) ≥ 0) ∧
     r.n = (subBin a m c).n ∧ r.z = (subBin a m c).z ∧ r.v = (subBin a m c).v)

/-- Decimal add and subtract of any two bytes, BCD or not (R151, R153, R166): each nibble of the result is the nibble sum or difference,
corrected by 6 where it passes 9 or borrows; the low nibble's correction carries or borrows exactly 1; C is the high nibble's; N, Z
and V are those of the uncorrected binary result, and the C of a subtract is that of the binary one. -/
def Obligations.DecimalArithmeticOnEveryByte : Prop :=
  (∀ (a m : Byte) (c : Bool), let r := addDec a m c
    let lo := a.toNat % 16 + m.toNat % 16 + c.toNat
    let hi := a.toNat / 16 + m.toNat / 16 + if lo > 9 then 1 else 0
    let hi' := if hi > 9 then hi + 6 else hi
    r.r.toNat % 16 = (if lo > 9 then lo + 6 else lo) % 16 ∧ r.r.toNat / 16 = hi' % 16 ∧ (r.c = true ↔ hi' > 15) ∧
    r.n = (addBin a m c).n ∧ r.z = (addBin a m c).z ∧ r.v = (addBin a m c).v) ∧
  (∀ (a m : Byte) (c : Bool), let r := subDec a m c
    let lo : Int := a.toNat % 16 - m.toNat % 16 - (1 - c.toNat)
    let hi : Int := a.toNat / 16 - m.toNat / 16 - if lo < 0 then 1 else 0
    (r.r.toNat % 16 : Int) = (if lo < 0 then lo - 6 else lo) % 16 ∧
    (r.r.toNat / 16 : Int) = (if hi < 0 then hi - 6 else hi) % 16 ∧ (r.c = true ↔ hi ≥ 0) ∧
    r.n = (subBin a m c).n ∧ r.z = (subBin a m c).z ∧ r.v = (subBin a m c).v ∧ r.c = (subBin a m c).c) ∧
  (addDec 0x99#8 0x01#8 false).r = 0x00#8 ∧ (addDec 0x99#8 0x01#8 false).z = false ∧ (addDec 0x99#8 0x01#8 false).n = true

/-! ## Operands -/

/-- The effective address of every memory form, with its pointer reads and nothing else done (R120 to R124).
`busTick` is the model's own counter (log 3). -/
def Obligations.EffectiveAddressOfEachForm : Prop :=
  ∀ (s : State) (zz : Byte) (hhll : Addr),
    (s.effectiveAddress (.zp zz)).1.toNat = zz.toNat ∧ (s.effectiveAddress (.zp zz)).2 = s ∧
    (s.effectiveAddress (.zpx zz)).1.toNat = (zz.toNat + s.x.toNat) % 256 ∧ (s.effectiveAddress (.zpx zz)).2 = s ∧
    (s.effectiveAddress (.zpy zz)).1.toNat = (zz.toNat + s.y.toNat) % 256 ∧ (s.effectiveAddress (.zpy zz)).2 = s ∧
    s.effectiveAddress (.abs hhll) = (hhll, s) ∧
    (s.effectiveAddress (.abx hhll)).1.toNat = (hhll.toNat + s.x.toNat) % 65536 ∧ (s.effectiveAddress (.abx hhll)).2 = s ∧
    (s.effectiveAddress (.aby hhll)).1.toNat = (hhll.toNat + s.y.toNat) % 65536 ∧ (s.effectiveAddress (.aby hhll)).2 = s ∧
    (∃ lo hi, let p0 := BitVec.ofNat 16 ((zz.toNat + s.x.toNat) % 256)
      let p1 := BitVec.ofNat 16 ((zz.toNat + s.x.toNat + 1) % 256)
      Answers s p0 lo ∧ Answers s p1 hi ∧
      s.effectiveAddress (.idx zz) =
        (hi ++ lo, { s with trace := s.trace ++ [.read p0 lo, .read p1 hi], busTick := s.busTick + 2 })) ∧
    (∃ lo hi, let p0 := BitVec.ofNat 16 zz.toNat
      let p1 := BitVec.ofNat 16 ((zz.toNat + 1) % 256)
      Answers s p0 lo ∧ Answers s p1 hi ∧
      (s.effectiveAddress (.idy zz)).1.toNat = (256 * hi.toNat + lo.toNat + s.y.toNat) % 65536 ∧
      (s.effectiveAddress (.idy zz)).2 = { s with trace := s.trace ++ [.read p0 lo, .read p1 hi], busTick := s.busTick + 2 })

/-- Load: the immediate byte with no access, or one read of the byte at the effective address after the pointer's reads (R127). -/
def Obligations.LoadReadsTheOperandOnce : Prop :=
  ∀ (s : State) (v : Byte) (f : MemForm), s.load (.imm v) = (v, s) ∧
    Answers s (s.effectiveAddress f).1 (s.load (.mem f)).1 ∧
    (s.load (.mem f)).2.trace = (s.effectiveAddress f).2.trace ++ [.read (s.effectiveAddress f).1 (s.load (.mem f)).1] ∧
    s.ReadsOnly (s.load (.mem f)).2 ∧ s.ReadsOnly (s.effectiveAddress f).2

/-! ## Results and frames of the instructions -/

/-- ADC and SBC in every form, binary or decimal by D, on A or with T on the zero-page byte at X (R154, R155, R128, R129). -/
def Obligations.AdcAndSbcResults : Prop :=
  ∀ (f : Source) (s : State), Memory.wf s.mem = true →
    (∃ t, exec (.adc f) s = .next t ∧
      RoutedEffect s t f true (fun a m => (adcOf s a m).r) (fun a m => aluFlags s.p (adcOf s a m))) ∧
    (∃ t, exec (.sbc f) s = .next t ∧
      RoutedEffect s t f true (fun a m => (sbcOf s a m).r) (fun a m => aluFlags s.p (sbcOf s a m)))

/-- AND, ORA, EOR and LDA in every form (R180, R181, R182, R200, R128, R129). -/
def Obligations.LogicAndLdaResults : Prop :=
  ∀ (f : Source) (s : State), Memory.wf s.mem = true →
    (∃ t, exec (.and f) s = .next t ∧ RoutedEffect s t f true (fun a m => a &&& m) (fun a m => nzFlags s.p (a &&& m))) ∧
    (∃ t, exec (.ora f) s = .next t ∧ RoutedEffect s t f true (fun a m => a ||| m) (fun a m => nzFlags s.p (a ||| m))) ∧
    (∃ t, exec (.eor f) s = .next t ∧ RoutedEffect s t f true (fun a m => a ^^^ m) (fun a m => nzFlags s.p (a ^^^ m))) ∧
    (∃ t, exec (.lda f) s = .next t ∧ RoutedEffect s t f true (fun _ m => m) (fun _ m => nzFlags s.p m))

/-- CMP, CPX and CPY write N, Z and C alone; V and D play no part, and T routes CMP alone (R156, R157, R158). -/
def Obligations.CompareResults : Prop :=
  ∀ (f : Source) (s : State),
    (∃ t, exec (.cmp f) s = .next t ∧ RoutedEffect s t f false (fun a _ => a) (fun a m => compareFlags s.p a m)) ∧
    exec (.cpx f) s = .next { (s.load f).2 with p := compareFlags s.p s.x (s.load f).1 } ∧
    exec (.cpy f) s = .next { (s.load f).2 with p := compareFlags s.p s.y (s.load f).1 }

/-- INC and DEC, one read and one write of memory, or A (R159, R160). -/
def Obligations.IncAndDecResults : Prop :=
  ∀ (f : Target) (s : State), Memory.wf s.mem = true →
    (∃ t, exec (.inc f) s = .next t ∧ ModifyEffect s t f (fun v => BitVec.ofNat 8 (v.toNat + 1))
      (fun v => nzFlags s.p (BitVec.ofNat 8 (v.toNat + 1)))) ∧
    (∃ t, exec (.dec f) s = .next t ∧ ModifyEffect s t f (fun v => BitVec.ofNat 8 (v.toNat + 255))
      (fun v => nzFlags s.p (BitVec.ofNat 8 (v.toNat + 255))))

/-- ASL, LSR, ROL and ROR as arithmetic on the byte, C taking the bit shifted out (R184 to R187). -/
def Obligations.ShiftAndRotateResults : Prop :=
  ∀ (f : Target) (s : State), Memory.wf s.mem = true →
    (∃ t, exec (.asl f) s = .next t ∧ ModifyEffect s t f (fun v => BitVec.ofNat 8 (2 * v.toNat))
      (fun v => { nzFlags s.p (BitVec.ofNat 8 (2 * v.toNat)) with c := decide (128 ≤ v.toNat) })) ∧
    (∃ t, exec (.lsr f) s = .next t ∧ ModifyEffect s t f (fun v => BitVec.ofNat 8 (v.toNat / 2))
      (fun v => { nzFlags s.p (BitVec.ofNat 8 (v.toNat / 2)) with c := decide (v.toNat % 2 = 1) })) ∧
    (∃ t, exec (.rol f) s = .next t ∧ ModifyEffect s t f (fun v => BitVec.ofNat 8 (2 * v.toNat + s.p.c.toNat))
      (fun v => { nzFlags s.p (BitVec.ofNat 8 (2 * v.toNat + s.p.c.toNat)) with c := decide (128 ≤ v.toNat) })) ∧
    (∃ t, exec (.ror f) s = .next t ∧ ModifyEffect s t f (fun v => BitVec.ofNat 8 (v.toNat / 2 + 128 * s.p.c.toNat))
      (fun v => { nzFlags s.p (BitVec.ofNat 8 (v.toNat / 2 + 128 * s.p.c.toNat)) with c := decide (v.toNat % 2 = 1) }))

/-- COM complements a zero-page byte and sets N and Z; RRF exchanges its nibbles and writes no flag (R188, R264). -/
def Obligations.ComplementAndNibbleSwapResults : Prop :=
  ∀ (zz : Byte) (s : State), Memory.wf s.mem = true →
    (∃ t, exec (.com zz) s = .next t ∧ ModifyEffect s t (.mem (.zp zz)) (fun v => BitVec.ofNat 8 (255 - v.toNat))
      (fun v => nzFlags s.p (BitVec.ofNat 8 (255 - v.toNat)))) ∧
    (∃ t, exec (.rrf zz) s = .next t ∧
      ModifyEffect s t (.mem (.zp zz)) (fun v => BitVec.ofNat 8 (16 * (v.toNat % 16) + v.toNat / 16)) (fun _ => s.p))

/-- Applying RRF twice to a byte of plain RAM returns it and leaves every flag unmodified.
Plain RAM is the model's (log 2). -/
def Obligations.NibbleSwapTwiceRestoresTheByte : Prop :=
  ∀ (zz : Byte) (s t u : State), Memory.wf s.mem = true → s.kindAt (BitVec.ofNat 16 zz.toNat) = .ram →
    exec (.rrf zz) s = .next t → exec (.rrf zz) t = .next u → u.mem = s.mem ∧ u.p = s.p

/-- SEB and CLB set and clear the bit of A or of a zero-page byte, and write no flag (R260, R261, R33). -/
def Obligations.SetAndClearBitResults : Prop :=
  ∀ (i : BitVec 3) (f : BitTarget) (s : State), Memory.wf s.mem = true →
    let target : Target := match f with | .acc => .acc | .zp zz => .mem (.zp zz)
    (∃ t, exec (.seb i f) s = .next t ∧ ModifyEffect s t target
      (fun v => if v.getLsbD i.toNat then v else BitVec.ofNat 8 (v.toNat + 2 ^ i.toNat)) (fun _ => s.p)) ∧
    (∃ t, exec (.clb i f) s = .next t ∧ ModifyEffect s t target
      (fun v => if v.getLsbD i.toNat then BitVec.ofNat 8 (v.toNat - 2 ^ i.toNat) else v) (fun _ => s.p))

/-- BBS and BBC test one bit of A, or of a zero-page byte read once, and branch; nothing else changes (R262, R263).
`busTick` is the model's own counter (log 3). -/
def Obligations.BitBranchResults : Prop :=
  ∀ (i : BitVec 3) (f : BitTarget) (rel : Byte) (s : State),
    ∃ v u, (match f with
        | .acc => v = s.a ∧ u = s
        | .zp zz => Answers s (BitVec.ofNat 16 zz.toNat) v ∧
            u = { s with trace := s.trace ++ [.read (BitVec.ofNat 16 zz.toNat) v], busTick := s.busTick + 1 }) ∧
      exec (.bbs i f rel) s =
        .next { u with pc := if v.getLsbD i.toNat then BitVec.ofInt 16 (s.pc.toNat + rel.toInt) else s.pc } ∧
      exec (.bbc i f rel) s =
        .next { u with pc := if v.getLsbD i.toNat then s.pc else BitVec.ofInt 16 (s.pc.toNat + rel.toInt) }

/-- The nine branches: the target is PC_next plus the signed displacement modulo 2^16, and nothing else changes (R229 to R238). -/
def Obligations.BranchResults : Prop :=
  ∀ (rel : Byte) (s : State), let target := BitVec.ofInt 16 ((s.pc.toNat : Int) + rel.toInt)
    exec (.bpl rel) s = .next { s with pc := if s.p.n then s.pc else target } ∧
    exec (.bmi rel) s = .next { s with pc := if s.p.n then target else s.pc } ∧
    exec (.bvc rel) s = .next { s with pc := if s.p.v then s.pc else target } ∧
    exec (.bvs rel) s = .next { s with pc := if s.p.v then target else s.pc } ∧
    exec (.bcc rel) s = .next { s with pc := if s.p.c then s.pc else target } ∧
    exec (.bcs rel) s = .next { s with pc := if s.p.c then target else s.pc } ∧
    exec (.bne rel) s = .next { s with pc := if s.p.z then s.pc else target } ∧
    exec (.beq rel) s = .next { s with pc := if s.p.z then target else s.pc } ∧
    exec (.bra rel) s = .next { s with pc := target }

/-- BIT and TST: flags from a memory byte; A and memory are unchanged (R183, R189).
`busTick` is the model's own counter (log 3). -/
def Obligations.BitAndTstResults : Prop :=
  ∀ (f : MemForm) (zz : Byte) (s : State),
    (let m := (s.load (.mem f)).1
     exec (.bit f) s = .next { (s.load (.mem f)).2 with
       p := { s.p with z := decide (s.a &&& m = 0#8), n := m.getLsbD 7, v := m.getLsbD 6 } }) ∧
    (∃ m, Answers s (BitVec.ofNat 16 zz.toNat) m ∧
      exec (.tst zz) s = .next { s with
        p := nzFlags s.p m
        trace := s.trace ++ [.read (BitVec.ofNat 16 zz.toNat) m]
        busTick := s.busTick + 1 })

/-- LDX and LDY (R201, R202). -/
def Obligations.LoadIndexResults : Prop :=
  ∀ (f : Source) (s : State),
    exec (.ldx f) s = .next { (s.load f).2 with x := (s.load f).1, p := nzFlags s.p (s.load f).1 } ∧
    exec (.ldy f) s = .next { (s.load f).2 with y := (s.load f).1, p := nzFlags s.p (s.load f).1 }

/-- STA, STX, STY and LDM: one write, no read of the destination, no flag; every byte of memory but the one stored to reads as before
(R203 to R206). -/
def Obligations.StoreResults : Prop :=
  ∀ (f : MemForm) (v zz : Byte) (s : State), Memory.wf s.mem = true →
    (∃ t, exec (.sta f) s = .next t ∧ StoreEffect s t f s.a) ∧
    (∃ t, exec (.stx f) s = .next t ∧ StoreEffect s t f s.x) ∧
    (∃ t, exec (.sty f) s = .next t ∧ StoreEffect s t f s.y) ∧
    (∃ t, exec (.ldm v zz) s = .next t ∧ StoreEffect s t (.zp zz) v)

/-- INX, INY, DEX, DEY and the six transfers, with their encodings: the destination register and, but for TXS, N and Z; nothing else, whatever T is
(R161 to R164, R207 to R212). -/
def Obligations.RegisterInstructionResults : Prop :=
  [Instr.inx, .iny, .dex, .dey, .tax, .tay, .txa, .tya, .tsx, .txs].map encode =
    [[0xE8#8], [0xC8#8], [0xCA#8], [0x88#8], [0xAA#8], [0xA8#8], [0x8A#8], [0x98#8], [0xBA#8], [0x9A#8]] ∧
  ∀ s : State,
    exec .inx s = .next { s with x := BitVec.ofNat 8 (s.x.toNat + 1), p := nzFlags s.p (BitVec.ofNat 8 (s.x.toNat + 1)) } ∧
    exec .iny s = .next { s with y := BitVec.ofNat 8 (s.y.toNat + 1), p := nzFlags s.p (BitVec.ofNat 8 (s.y.toNat + 1)) } ∧
    exec .dex s = .next { s with x := BitVec.ofNat 8 (s.x.toNat + 255), p := nzFlags s.p (BitVec.ofNat 8 (s.x.toNat + 255)) } ∧
    exec .dey s = .next { s with y := BitVec.ofNat 8 (s.y.toNat + 255), p := nzFlags s.p (BitVec.ofNat 8 (s.y.toNat + 255)) } ∧
    exec .tax s = .next { s with x := s.a, p := nzFlags s.p s.a } ∧
    exec .tay s = .next { s with y := s.a, p := nzFlags s.p s.a } ∧
    exec .txa s = .next { s with a := s.x, p := nzFlags s.p s.x } ∧
    exec .tya s = .next { s with a := s.y, p := nzFlags s.p s.y } ∧
    exec .tsx s = .next { s with x := s.sp, p := nzFlags s.p s.sp } ∧
    exec .txs s = .next { s with sp := s.x }

/-- The pushed status byte is N:V:T:b:D:I:Z:C, and pulling it restores the seven flags, bit 4 discarded (R34). -/
def Obligations.StatusByteLayout : Prop :=
  ∀ (p : Flags) (b : Bool), unpackP (packP p b) = p ∧
    (packP p b).toNat = 128 * p.n.toNat + 64 * p.v.toNat + 32 * p.t.toNat + 16 * b.toNat + 8 * p.d.toNat + 4 * p.i.toNat +
      2 * p.z.toNat + p.c.toNat

/-- PHA and PHP write one byte at `stackPage:S` and decrement S modulo 256 (R213, R214, R130). -/
def Obligations.PushInstructionResults : Prop :=
  ∀ s : State, Memory.wf s.mem = true →
    let top := s.cfg.stackPage ++ s.sp
    (∃ t, exec .pha s = .next t ∧ t.sp.toNat = (s.sp.toNat + 255) % 256 ∧ t.trace = s.trace ++ [.write top s.a] ∧
      StoresAt s t top s.a ∧ t = { s with sp := t.sp, mem := t.mem, trace := t.trace, busTick := t.busTick }) ∧
    (∃ t, exec .php s = .next t ∧ t.sp.toNat = (s.sp.toNat + 255) % 256 ∧ t.trace = s.trace ++ [.write top (packP s.p true)] ∧
      StoresAt s t top (packP s.p true) ∧ t = { s with sp := t.sp, mem := t.mem, trace := t.trace, busTick := t.busTick })

/-- PLA and PLP increment S modulo 256 and read one byte at `stackPage:S`; PLP writes all seven flags from it (R215, R216, R131).
`busTick` is the model's own counter (log 3). -/
def Obligations.PullInstructionResults : Prop :=
  ∀ s : State, let sp := BitVec.ofNat 8 (s.sp.toNat + 1)
    ∃ v, Answers s (s.cfg.stackPage ++ sp) v ∧
      (let read := s.trace ++ [.read (s.cfg.stackPage ++ sp) v]
       exec .pla s = .next { s with a := v, sp := sp, p := nzFlags s.p v, trace := read, busTick := s.busTick + 1 } ∧
       exec .plp s = .next { s with
         sp := sp
         p := { n := v.getLsbD 7, v := v.getLsbD 6, t := v.getLsbD 5, d := v.getLsbD 3, i := v.getLsbD 2, z := v.getLsbD 1,
                c := v.getLsbD 0 }
         trace := read, busTick := s.busTick + 1 })

/-- JMP in its three forms; an absolute indirect pointer takes its high byte from its own page exactly when `jmpIndirectPageWrap`
(R240, R125, R126).
`busTick` is the model's own counter (log 3). -/
def Obligations.JmpResults : Prop :=
  ∀ (s : State) (hhll : Addr) (zz : Byte),
    exec (.jmp (.abs hhll)) s = .next { s with pc := hhll } ∧
    (∃ lo hi, let p0 := BitVec.ofNat 16 zz.toNat
      let p1 := BitVec.ofNat 16 ((zz.toNat + 1) % 256)
      Answers s p0 lo ∧ Answers s p1 hi ∧ exec (.jmp (.zpi zz)) s =
        .next { s with pc := hi ++ lo, trace := s.trace ++ [.read p0 lo, .read p1 hi], busTick := s.busTick + 2 }) ∧
    (∃ lo hi, let q := BitVec.ofNat 16 (if s.cfg.jmpIndirectPageWrap then hhll.toNat / 256 * 256 + (hhll.toNat + 1) % 256
        else hhll.toNat + 1)
      Answers s hhll lo ∧ Answers s q hi ∧ exec (.jmp (.ind hhll)) s =
        .next { s with pc := hi ++ lo, trace := s.trace ++ [.read hhll lo, .read q hi], busTick := s.busTick + 2 })

/-- JSR in its three forms: the pointer is read first, then the address of the instruction's last byte is pushed, high byte first
(R241, R242, R243, R132). -/
def Obligations.JsrResults : Prop :=
  ∀ (f : JsrTarget) (s : State), Memory.wf s.mem = true →
    let at0 := s.cfg.stackPage ++ s.sp
    let at1 := s.cfg.stackPage ++ (s.sp - 1)
    let last := s.pc - 1
    ∃ t pointerReads, exec (.jsr f) s = .next t ∧
      (match f with
        | .abs hhll => t.pc = hhll ∧ pointerReads = []
        | .sp zz => t.pc.toNat = 0xFF00 + zz.toNat ∧ pointerReads = []
        | .zpi zz => ∃ lo hi, Answers s (BitVec.ofNat 16 zz.toNat) lo ∧ Answers s (BitVec.ofNat 16 ((zz.toNat + 1) % 256)) hi ∧
            t.pc = hi ++ lo ∧
            pointerReads = [.read (BitVec.ofNat 16 zz.toNat) lo, .read (BitVec.ofNat 16 ((zz.toNat + 1) % 256)) hi]) ∧
      t.trace = s.trace ++ pointerReads ++ [.write at0 (highByte last), .write at1 (lowByte last)] ∧
      t.sp = s.sp - 2 ∧ (∀ b, b ≠ at0 → b ≠ at1 → t.peek b = s.peek b) ∧
      (s.kindAt at0 = .ram → t.peek at0 = highByte last) ∧ (s.kindAt at1 = .ram → t.peek at1 = lowByte last) ∧
      t = { s with pc := t.pc, sp := t.sp, mem := t.mem, trace := t.trace, busTick := t.busTick }

/-- RTS pulls PC, low byte first, and goes to the address after it; no memory and no flag changes (R244, R132).
`busTick` is the model's own counter (log 3). -/
def Obligations.RtsResult : Prop :=
  ∀ s : State, let at0 := s.cfg.stackPage ++ (s.sp + 1)
    let at1 := s.cfg.stackPage ++ (s.sp + 2)
    ∃ lo hi, Answers s at0 lo ∧ Answers s at1 hi ∧ exec .rts s =
      .next { s with
        pc := BitVec.ofNat 16 (256 * hi.toNat + lo.toNat + 1)
        sp := s.sp + 2
        trace := s.trace ++ [.read at0 lo, .read at1 hi]
        busTick := s.busTick + 2 }

/-- RTI pulls the status byte, then PC, low byte first, with no adjustment (R245, R325).
`busTick` is the model's own counter (log 3). -/
def Obligations.RtiResult : Prop :=
  ∀ s : State, let at0 := s.cfg.stackPage ++ (s.sp + 1)
    let at1 := s.cfg.stackPage ++ (s.sp + 2)
    let at2 := s.cfg.stackPage ++ (s.sp + 3)
    ∃ v lo hi, Answers s at0 v ∧ Answers s at1 lo ∧ Answers s at2 hi ∧ exec .rti s = .next { s with
      pc := hi ++ lo, sp := s.sp + 3
      p := { n := v.getLsbD 7, v := v.getLsbD 6, t := v.getLsbD 5, d := v.getLsbD 3, i := v.getLsbD 2, z := v.getLsbD 1,
             c := v.getLsbD 0 }
      trace := s.trace ++ [.read at0 v, .read at1 lo, .read at2 hi], busTick := s.busTick + 3 }

/-- BRK is the entry sequence through `brkVector` with bit 4 of the pushed status set, whatever I is; the signature byte plays no part
(R246, R320). -/
def Obligations.BrkResult : Prop :=
  ∀ (signature : Byte) (s : State), Memory.wf s.mem = true →
    ∃ t, exec (.brk signature) s = .next t ∧ EntryEffect s t .brk s.cfg.brkVector true

/-- The entry writes three stack bytes and reads two vector bytes, in order, changes S by -3, I to `entryIValue` and PC, clears the
NMI latch for an NMI, sets `skipPoll`, and changes nothing else (R320). -/
def Obligations.EntrySequenceEffect : Prop :=
  ∀ (s : State) (src : EntrySource), Memory.wf s.mem = true →
    EntryEffect s (s.entry src) src (vectorAddress s.cfg src) (decide (src = .brk))

/-- RTI after an entry returns to the interrupted instruction: PC, S and every flag are as before the entry, as are A, X and Y.
That the stack is plain RAM is a premise, since the spec leaves memory to the platform (log 2). -/
def Obligations.RtiUndoesTheEntry : Prop :=
  ∀ (s : State) (src : EntrySource), Memory.wf s.mem = true → EntryStackIsRam s →
    ∃ t, exec .rti (s.entry src) = .next t ∧ t.pc = s.pc ∧ t.sp = s.sp ∧ t.p = s.p ∧ t.a = s.a ∧ t.x = s.x ∧ t.y = s.y ∧
      t.run = s.run ∧ SameMemory (s.entry src) t

/-- RTS after JSR returns to the instruction after the JSR, with S restored.
That the stack is plain RAM is a premise, since the spec leaves memory to the platform (log 2). -/
def Obligations.RtsReturnsAfterJsr : Prop :=
  ∀ (s t : State) (f : JsrTarget), Memory.wf s.mem = true →
    s.kindAt (s.cfg.stackPage ++ s.sp) = .ram → s.kindAt (s.cfg.stackPage ++ (s.sp - 1)) = .ram →
    exec (.jsr f) s = .next t →
    ∃ u, exec .rts t = .next u ∧ u.pc = s.pc ∧ u.sp = s.sp ∧ u.p = s.p ∧ u.a = s.a ∧ u.x = s.x ∧ u.y = s.y ∧ SameMemory t u

/-- Each flag instruction, with its encoding, writes its flag and nothing else; NOP changes nothing; WIT and STP change the run state alone (R280 to R291). -/
def Obligations.FlagNopWaitStopResults : Prop :=
  [Instr.clc, .sec, .cli, .sei, .cld, .sed, .clv, .clt, .setT, .nop, .wit, .stp].map encode =
    [[0x18#8], [0x38#8], [0x58#8], [0x78#8], [0xD8#8], [0xF8#8], [0xB8#8], [0x12#8], [0x32#8], [0xEA#8], [0xC2#8], [0x42#8]] ∧
  ∀ s : State,
    exec .clc s = .next { s with p := { s.p with c := false } } ∧ exec .sec s = .next { s with p := { s.p with c := true } } ∧
    exec .cli s = .next { s with p := { s.p with i := false } } ∧ exec .sei s = .next { s with p := { s.p with i := true } } ∧
    exec .cld s = .next { s with p := { s.p with d := false } } ∧ exec .sed s = .next { s with p := { s.p with d := true } } ∧
    exec .clv s = .next { s with p := { s.p with v := false } } ∧ exec .clt s = .next { s with p := { s.p with t := false } } ∧
    exec .setT s = .next { s with p := { s.p with t := true } } ∧ exec .nop s = .next s ∧
    exec .wit s = .next { s with run := .waiting } ∧ exec .stp s = .next { s with run := .stopped }

/-- A REFUSED byte is refused whatever the configuration says, and an UNDEFINED byte when the configuration gives it no meaning; PC is
already advanced by one at the opcode fetch (R293, R292).
What a refusal carries is the model's choice (log 13). -/
def Obligations.UnadmittedBytesAreRefused : Prop :=
  ∀ (op : Byte) (s : State), exec (.refusedOpcode op) s = .refused (.refusedOpcode op s.pc) ∧
    ((∀ m ∈ s.cfg.undefinedOpcodeMeaning, m.undefinedByte ≠ op) → exec (.undefined op) s = .refused (.undefinedOpcode op s.pc))

/-- An UNDEFINED byte to which the configuration gives a meaning executes as the admitted form it names, the operand bytes fetched
after it, and the instruction is as long as the meaning says: PC is past all its bytes, each fetched once, in order (R292).
That a length beyond the form's own fetches and ignores the further bytes is the model's reading (log 12); `busTick` is its own counter (log 3). -/
def Obligations.UndefinedBytesExecuteTheirConfiguredMeaning : Prop :=
  ∀ (op : Byte) (s : State) (m : OpcodeMeaning), meaningOf s.cfg op = some m →
    (decodeWith m.opcode 0#8 0#8).admitted = true → opcodeLength m.opcode ≤ m.length →
    ∃ t, exec (.undefined op) s = .next t ∧
      exec (decodeWith m.opcode (fetchedByte s 0) (fetchedByte s 1)) { s with
        pc := s.pc + BitVec.ofNat 16 (m.length - 1)
        trace := s.trace ++ (List.range (m.length - 1)).map fun k => .read (s.pc + BitVec.ofNat 16 k) (fetchedByte s k)
        busTick := s.busTick + (m.length - 1) } = .next t

/-! ## Memory -/

/-- A byte of plain RAM reads back as written, by the bus, and no other byte changes; the access is recorded.
That memory behind the bus is modelled at all is the model's choice (log 2). -/
def Obligations.RamReadsBackTheByteWritten : Prop :=
  ∀ (s : State) (a : Addr) (v : Byte), Memory.wf s.mem = true → s.kindAt a = .ram →
    ((s.write8 a v).read8 a).1 = v ∧ (∀ b, b ≠ a → (s.write8 a v).peek b = s.peek b) ∧
    ((s.write8 a v).read8 a).2.trace = s.trace ++ [.write a v, .read a v] ∧ Memory.wf (s.write8 a v).mem = true

/-- Canonical memories that read alike at every address are equal data, and a write keeps the canonical form.
The form of the memory is the model's own (logs 2, 4). -/
def Obligations.MemoryIsCanonical : Prop :=
  ∀ (m m' : Memory), Memory.wf m = true → Memory.wf m' = true →
    ((∀ a : Addr, Memory.read m a.toNat = Memory.read m' a.toNat) → m = m') ∧
    ∀ (a : Addr) (v : Byte), Memory.wf (Memory.write m a.toNat v) = true

/-- Read16 is little-endian, reads the low byte first, and wraps from 0xFFFF to 0x0000; Read16zp keeps both bytes in page zero (R133).
`busTick` is the model's own counter (log 3). -/
def Obligations.Read16IsLittleEndian : Prop :=
  ∀ (s : State) (a : Addr) (p : Byte),
    (let next := BitVec.ofNat 16 (a.toNat + 1)
     ∃ lo hi, Answers s a lo ∧ Answers s next hi ∧ (s.read16 a).1.toNat = 256 * hi.toNat + lo.toNat ∧
       (s.read16 a).2 = { s with trace := s.trace ++ [.read a lo, .read next hi], busTick := s.busTick + 2 }) ∧
    (let first := BitVec.ofNat 16 p.toNat
     let next := BitVec.ofNat 16 ((p.toNat + 1) % 256)
     ∃ lo hi, Answers s first lo ∧ Answers s next hi ∧ (s.read16zp p).1.toNat = 256 * hi.toNat + lo.toNat ∧
       (s.read16zp p).2 = { s with trace := s.trace ++ [.read first lo, .read next hi], busTick := s.busTick + 2 })
end

