-- ==== Sys2Proof/Laws/Memory.lean ====
section
/-! SUPPORT. The laws of the memory operations: a read after a write, every operation keeps the canonical form, and canonical memories
that read alike are equal. -/

namespace Sys2Proof.Machine

theorem Memory.wfFrom_cons {lo k : Nat} {v : Byte} {m : Memory} :
    Memory.wfFrom lo ((k, v) :: m) = true ↔
      lo ≤ k ∧ k < 2 ^ 16 ∧ v ≠ Memory.unlisted ∧ Memory.wfFrom (k + 1) m = true := by
  simp [Memory.wfFrom, and_assoc]

theorem Memory.wfFrom_mono {lo lo' : Nat} {m : Memory} (h : lo' ≤ lo) (hm : Memory.wfFrom lo m = true) :
    Memory.wfFrom lo' m = true := by
  cases m with
  | nil => rfl
  | cons c m =>
    obtain ⟨k, v⟩ := c
    rw [Memory.wfFrom_cons] at *
    exact ⟨by omega, hm.2⟩

/-- Below every listed address a memory reads as unlisted. -/
theorem Memory.read_below {lo a : Nat} {m : Memory} (hm : Memory.wfFrom lo m = true) (h : a < lo) :
    Memory.read m a = Memory.unlisted := by
  induction m generalizing lo with
  | nil => rfl
  | cons c m ih =>
    obtain ⟨k, v⟩ := c
    rw [Memory.wfFrom_cons] at hm
    have hk : k ≠ a := by omega
    simp only [Memory.read, hk, if_false]
    exact ih hm.2.2.2 (by omega)

theorem Memory.read_write_same_from {lo a : Nat} {v : Byte} {m : Memory} (hm : Memory.wfFrom lo m = true) :
    Memory.read (Memory.write m a v) a = v := by
  induction m generalizing lo with
  | nil => by_cases hv : v = Memory.unlisted <;> simp [Memory.write, Memory.read, hv]
  | cons c m ih =>
    obtain ⟨k, w⟩ := c
    rw [Memory.wfFrom_cons] at hm
    simp only [Memory.write]
    split
    · split
      · have hk : k ≠ a := by omega
        simp only [Memory.read, hk, if_false, Memory.read_below hm.2.2.2 (show a < k + 1 by omega)]
        exact (‹v = _›).symm
      · simp [Memory.read]
    · split
      · split
        · rw [Memory.read_below hm.2.2.2 (show a < k + 1 by omega)]
          exact (‹v = _›).symm
        · simp [Memory.read]
      · have hk : k ≠ a := fun h => ‹¬a = k› h.symm
        simp only [Memory.read, hk, if_false]
        exact ih hm.2.2.2

/-- In a canonical memory a read after a write to the same address gives the byte written. -/
theorem Memory.read_write_same {a : Nat} {v : Byte} {m : Memory} (hm : Memory.wf m = true) :
    Memory.read (Memory.write m a v) a = v :=
  Memory.read_write_same_from hm

/-- A write leaves every other address alone, in any memory. -/
theorem Memory.read_write_other {a b : Nat} {v : Byte} {m : Memory} (h : b ≠ a) :
    Memory.read (Memory.write m a v) b = Memory.read m b := by
  induction m with
  | nil => by_cases hv : v = Memory.unlisted <;> simp [Memory.write, Memory.read, hv, h.symm]
  | cons c m ih =>
    obtain ⟨k, w⟩ := c
    simp only [Memory.write]
    split
    · split <;> simp [Memory.read, h.symm]
    · split
      · have hk : ¬k = b := by omega
        split <;> simp [Memory.read, h.symm, hk]
      · simp [Memory.read, ih]

theorem Memory.write_wfFrom {lo a : Nat} {v : Byte} {m : Memory} (hm : Memory.wfFrom lo m = true) (hlo : lo ≤ a)
    (ha : a < 2 ^ 16) : Memory.wfFrom lo (Memory.write m a v) = true := by
  induction m generalizing lo with
  | nil =>
    by_cases hv : v = Memory.unlisted
    · simp [Memory.write, hv, Memory.wfFrom]
    · simp only [Memory.write, hv, if_false, Memory.wfFrom_cons]
      exact ⟨hlo, ha, hv, rfl⟩
  | cons c m ih =>
    obtain ⟨k, w⟩ := c
    have hc := hm
    rw [Memory.wfFrom_cons] at hc
    simp only [Memory.write]
    split
    · split
      · exact hm
      · rw [Memory.wfFrom_cons, Memory.wfFrom_cons]
        exact ⟨hlo, ha, ‹_›, by omega, hc.2⟩
    · split
      · split
        · exact Memory.wfFrom_mono (by omega) hc.2.2.2
        · rw [Memory.wfFrom_cons]
          exact ⟨hlo, ha, ‹_›, by subst_vars; exact hc.2.2.2⟩
      · rw [Memory.wfFrom_cons]
        exact ⟨hc.1, hc.2.1, hc.2.2.1, ih hc.2.2.2 (by omega)⟩

/-- A write within the address space keeps the canonical form. -/
theorem Memory.write_wf {a : Nat} {v : Byte} {m : Memory} (hm : Memory.wf m = true) (ha : a < 2 ^ 16) :
    Memory.wf (Memory.write m a v) = true :=
  Memory.write_wfFrom hm (Nat.zero_le _) ha

theorem Memory.eq_of_read_from {lo : Nat} {m m' : Memory} (hm : Memory.wfFrom lo m = true)
    (hm' : Memory.wfFrom lo m' = true) (h : ∀ a, Memory.read m a = Memory.read m' a) : m = m' := by
  induction m generalizing lo m' with
  | nil =>
    cases m' with
    | nil => rfl
    | cons c m' =>
      obtain ⟨k, v⟩ := c
      have hk := h k
      rw [Memory.wfFrom_cons] at hm'
      simp only [Memory.read, if_true] at hk
      exact absurd hk.symm hm'.2.2.1
  | cons c m ih =>
    obtain ⟨k, v⟩ := c
    rw [Memory.wfFrom_cons] at hm
    cases m' with
    | nil =>
      have hk := h k
      simp only [Memory.read, if_true] at hk
      exact absurd hk hm.2.2.1
    | cons c' m' =>
      obtain ⟨k', v'⟩ := c'
      rw [Memory.wfFrom_cons] at hm'
      have hkk : k = k' := by
        rcases Nat.lt_trichotomy k k' with hlt | heq | hgt
        · have hk := h k
          have hne : k' ≠ k := by omega
          simp only [Memory.read, if_true, hne, if_false] at hk
          rw [Memory.read_below hm'.2.2.2 (by omega)] at hk
          exact absurd hk hm.2.2.1
        · exact heq
        · have hk := h k'
          have hne : k ≠ k' := by omega
          simp only [Memory.read, if_true, hne, if_false] at hk
          rw [Memory.read_below hm.2.2.2 (by omega)] at hk
          exact absurd hk.symm hm'.2.2.1
      subst hkk
      have hv := h k
      simp only [Memory.read, if_true] at hv
      subst hv
      have htail : m = m' := by
        refine ih hm.2.2.2 hm'.2.2.2 fun a => ?_
        by_cases ha : a < k + 1
        · rw [Memory.read_below hm.2.2.2 ha, Memory.read_below hm'.2.2.2 ha]
        · have hr := h a
          have hne : k ≠ a := by omega
          simpa only [Memory.read, hne, if_false] using hr
      rw [htail]

/-- Canonical memories that read alike are equal data. -/
theorem Memory.eq_of_read {m m' : Memory} (hm : Memory.wf m = true) (hm' : Memory.wf m' = true)
    (h : ∀ a, Memory.read m a = Memory.read m' a) : m = m' :=
  Memory.eq_of_read_from hm hm' h

end Sys2Proof.Machine
end

