-- ==== Sys2Proof/Laws/State.lean ====
section
/-! SUPPORT. One lemma per field of State per update, so that no proof unfolds a record update; and one per field of Flags per flag
update. -/

namespace Sys2Proof.Machine

variable (s : State)

@[simp] theorem State.setA_a (v : Byte) : (s.setA v).a = v := rfl
@[simp] theorem State.setA_x (v : Byte) : (s.setA v).x = s.x := rfl
@[simp] theorem State.setA_y (v : Byte) : (s.setA v).y = s.y := rfl
@[simp] theorem State.setA_sp (v : Byte) : (s.setA v).sp = s.sp := rfl
@[simp] theorem State.setA_pc (v : Byte) : (s.setA v).pc = s.pc := rfl
@[simp] theorem State.setA_p (v : Byte) : (s.setA v).p = s.p := rfl
@[simp] theorem State.setA_lines (v : Byte) : (s.setA v).lines = s.lines := rfl
@[simp] theorem State.setA_nmiLevel (v : Byte) : (s.setA v).nmiLevel = s.nmiLevel := rfl
@[simp] theorem State.setA_nmiPending (v : Byte) : (s.setA v).nmiPending = s.nmiPending := rfl
@[simp] theorem State.setA_run (v : Byte) : (s.setA v).run = s.run := rfl
@[simp] theorem State.setA_skipPoll (v : Byte) : (s.setA v).skipPoll = s.skipPoll := rfl
@[simp] theorem State.setA_mem (v : Byte) : (s.setA v).mem = s.mem := rfl
@[simp] theorem State.setA_trace (v : Byte) : (s.setA v).trace = s.trace := rfl
@[simp] theorem State.setA_busTick (v : Byte) : (s.setA v).busTick = s.busTick := rfl
@[simp] theorem State.setA_cfg (v : Byte) : (s.setA v).cfg = s.cfg := rfl

@[simp] theorem State.setX_a (v : Byte) : (s.setX v).a = s.a := rfl
@[simp] theorem State.setX_x (v : Byte) : (s.setX v).x = v := rfl
@[simp] theorem State.setX_y (v : Byte) : (s.setX v).y = s.y := rfl
@[simp] theorem State.setX_sp (v : Byte) : (s.setX v).sp = s.sp := rfl
@[simp] theorem State.setX_pc (v : Byte) : (s.setX v).pc = s.pc := rfl
@[simp] theorem State.setX_p (v : Byte) : (s.setX v).p = s.p := rfl
@[simp] theorem State.setX_lines (v : Byte) : (s.setX v).lines = s.lines := rfl
@[simp] theorem State.setX_nmiLevel (v : Byte) : (s.setX v).nmiLevel = s.nmiLevel := rfl
@[simp] theorem State.setX_nmiPending (v : Byte) : (s.setX v).nmiPending = s.nmiPending := rfl
@[simp] theorem State.setX_run (v : Byte) : (s.setX v).run = s.run := rfl
@[simp] theorem State.setX_skipPoll (v : Byte) : (s.setX v).skipPoll = s.skipPoll := rfl
@[simp] theorem State.setX_mem (v : Byte) : (s.setX v).mem = s.mem := rfl
@[simp] theorem State.setX_trace (v : Byte) : (s.setX v).trace = s.trace := rfl
@[simp] theorem State.setX_busTick (v : Byte) : (s.setX v).busTick = s.busTick := rfl
@[simp] theorem State.setX_cfg (v : Byte) : (s.setX v).cfg = s.cfg := rfl

@[simp] theorem State.setY_a (v : Byte) : (s.setY v).a = s.a := rfl
@[simp] theorem State.setY_x (v : Byte) : (s.setY v).x = s.x := rfl
@[simp] theorem State.setY_y (v : Byte) : (s.setY v).y = v := rfl
@[simp] theorem State.setY_sp (v : Byte) : (s.setY v).sp = s.sp := rfl
@[simp] theorem State.setY_pc (v : Byte) : (s.setY v).pc = s.pc := rfl
@[simp] theorem State.setY_p (v : Byte) : (s.setY v).p = s.p := rfl
@[simp] theorem State.setY_lines (v : Byte) : (s.setY v).lines = s.lines := rfl
@[simp] theorem State.setY_nmiLevel (v : Byte) : (s.setY v).nmiLevel = s.nmiLevel := rfl
@[simp] theorem State.setY_nmiPending (v : Byte) : (s.setY v).nmiPending = s.nmiPending := rfl
@[simp] theorem State.setY_run (v : Byte) : (s.setY v).run = s.run := rfl
@[simp] theorem State.setY_skipPoll (v : Byte) : (s.setY v).skipPoll = s.skipPoll := rfl
@[simp] theorem State.setY_mem (v : Byte) : (s.setY v).mem = s.mem := rfl
@[simp] theorem State.setY_trace (v : Byte) : (s.setY v).trace = s.trace := rfl
@[simp] theorem State.setY_busTick (v : Byte) : (s.setY v).busTick = s.busTick := rfl
@[simp] theorem State.setY_cfg (v : Byte) : (s.setY v).cfg = s.cfg := rfl

@[simp] theorem State.setSP_a (v : Byte) : (s.setSP v).a = s.a := rfl
@[simp] theorem State.setSP_x (v : Byte) : (s.setSP v).x = s.x := rfl
@[simp] theorem State.setSP_y (v : Byte) : (s.setSP v).y = s.y := rfl
@[simp] theorem State.setSP_sp (v : Byte) : (s.setSP v).sp = v := rfl
@[simp] theorem State.setSP_pc (v : Byte) : (s.setSP v).pc = s.pc := rfl
@[simp] theorem State.setSP_p (v : Byte) : (s.setSP v).p = s.p := rfl
@[simp] theorem State.setSP_lines (v : Byte) : (s.setSP v).lines = s.lines := rfl
@[simp] theorem State.setSP_nmiLevel (v : Byte) : (s.setSP v).nmiLevel = s.nmiLevel := rfl
@[simp] theorem State.setSP_nmiPending (v : Byte) : (s.setSP v).nmiPending = s.nmiPending := rfl
@[simp] theorem State.setSP_run (v : Byte) : (s.setSP v).run = s.run := rfl
@[simp] theorem State.setSP_skipPoll (v : Byte) : (s.setSP v).skipPoll = s.skipPoll := rfl
@[simp] theorem State.setSP_mem (v : Byte) : (s.setSP v).mem = s.mem := rfl
@[simp] theorem State.setSP_trace (v : Byte) : (s.setSP v).trace = s.trace := rfl
@[simp] theorem State.setSP_busTick (v : Byte) : (s.setSP v).busTick = s.busTick := rfl
@[simp] theorem State.setSP_cfg (v : Byte) : (s.setSP v).cfg = s.cfg := rfl

@[simp] theorem State.setPC_a (w : Addr) : (s.setPC w).a = s.a := rfl
@[simp] theorem State.setPC_x (w : Addr) : (s.setPC w).x = s.x := rfl
@[simp] theorem State.setPC_y (w : Addr) : (s.setPC w).y = s.y := rfl
@[simp] theorem State.setPC_sp (w : Addr) : (s.setPC w).sp = s.sp := rfl
@[simp] theorem State.setPC_pc (w : Addr) : (s.setPC w).pc = w := rfl
@[simp] theorem State.setPC_p (w : Addr) : (s.setPC w).p = s.p := rfl
@[simp] theorem State.setPC_lines (w : Addr) : (s.setPC w).lines = s.lines := rfl
@[simp] theorem State.setPC_nmiLevel (w : Addr) : (s.setPC w).nmiLevel = s.nmiLevel := rfl
@[simp] theorem State.setPC_nmiPending (w : Addr) : (s.setPC w).nmiPending = s.nmiPending := rfl
@[simp] theorem State.setPC_run (w : Addr) : (s.setPC w).run = s.run := rfl
@[simp] theorem State.setPC_skipPoll (w : Addr) : (s.setPC w).skipPoll = s.skipPoll := rfl
@[simp] theorem State.setPC_mem (w : Addr) : (s.setPC w).mem = s.mem := rfl
@[simp] theorem State.setPC_trace (w : Addr) : (s.setPC w).trace = s.trace := rfl
@[simp] theorem State.setPC_busTick (w : Addr) : (s.setPC w).busTick = s.busTick := rfl
@[simp] theorem State.setPC_cfg (w : Addr) : (s.setPC w).cfg = s.cfg := rfl

@[simp] theorem State.setFlags_a (q : Flags) : (s.setFlags q).a = s.a := rfl
@[simp] theorem State.setFlags_x (q : Flags) : (s.setFlags q).x = s.x := rfl
@[simp] theorem State.setFlags_y (q : Flags) : (s.setFlags q).y = s.y := rfl
@[simp] theorem State.setFlags_sp (q : Flags) : (s.setFlags q).sp = s.sp := rfl
@[simp] theorem State.setFlags_pc (q : Flags) : (s.setFlags q).pc = s.pc := rfl
@[simp] theorem State.setFlags_p (q : Flags) : (s.setFlags q).p = q := rfl
@[simp] theorem State.setFlags_lines (q : Flags) : (s.setFlags q).lines = s.lines := rfl
@[simp] theorem State.setFlags_nmiLevel (q : Flags) : (s.setFlags q).nmiLevel = s.nmiLevel := rfl
@[simp] theorem State.setFlags_nmiPending (q : Flags) : (s.setFlags q).nmiPending = s.nmiPending := rfl
@[simp] theorem State.setFlags_run (q : Flags) : (s.setFlags q).run = s.run := rfl
@[simp] theorem State.setFlags_skipPoll (q : Flags) : (s.setFlags q).skipPoll = s.skipPoll := rfl
@[simp] theorem State.setFlags_mem (q : Flags) : (s.setFlags q).mem = s.mem := rfl
@[simp] theorem State.setFlags_trace (q : Flags) : (s.setFlags q).trace = s.trace := rfl
@[simp] theorem State.setFlags_busTick (q : Flags) : (s.setFlags q).busTick = s.busTick := rfl
@[simp] theorem State.setFlags_cfg (q : Flags) : (s.setFlags q).cfg = s.cfg := rfl

@[simp] theorem State.record_a (e : BusAccess) : (s.record e).a = s.a := rfl
@[simp] theorem State.record_x (e : BusAccess) : (s.record e).x = s.x := rfl
@[simp] theorem State.record_y (e : BusAccess) : (s.record e).y = s.y := rfl
@[simp] theorem State.record_sp (e : BusAccess) : (s.record e).sp = s.sp := rfl
@[simp] theorem State.record_pc (e : BusAccess) : (s.record e).pc = s.pc := rfl
@[simp] theorem State.record_p (e : BusAccess) : (s.record e).p = s.p := rfl
@[simp] theorem State.record_lines (e : BusAccess) : (s.record e).lines = s.lines := rfl
@[simp] theorem State.record_nmiLevel (e : BusAccess) : (s.record e).nmiLevel = s.nmiLevel := rfl
@[simp] theorem State.record_nmiPending (e : BusAccess) : (s.record e).nmiPending = s.nmiPending := rfl
@[simp] theorem State.record_run (e : BusAccess) : (s.record e).run = s.run := rfl
@[simp] theorem State.record_skipPoll (e : BusAccess) : (s.record e).skipPoll = s.skipPoll := rfl
@[simp] theorem State.record_mem (e : BusAccess) : (s.record e).mem = s.mem := rfl
@[simp] theorem State.record_trace (e : BusAccess) : (s.record e).trace = s.trace ++ [e] := rfl
@[simp] theorem State.record_busTick (e : BusAccess) : (s.record e).busTick = s.busTick + 1 := rfl
@[simp] theorem State.record_cfg (e : BusAccess) : (s.record e).cfg = s.cfg := rfl

@[simp] theorem State.clearTrace_a : s.clearTrace.a = s.a := rfl
@[simp] theorem State.clearTrace_x : s.clearTrace.x = s.x := rfl
@[simp] theorem State.clearTrace_y : s.clearTrace.y = s.y := rfl
@[simp] theorem State.clearTrace_sp : s.clearTrace.sp = s.sp := rfl
@[simp] theorem State.clearTrace_pc : s.clearTrace.pc = s.pc := rfl
@[simp] theorem State.clearTrace_p : s.clearTrace.p = s.p := rfl
@[simp] theorem State.clearTrace_lines : s.clearTrace.lines = s.lines := rfl
@[simp] theorem State.clearTrace_nmiLevel : s.clearTrace.nmiLevel = s.nmiLevel := rfl
@[simp] theorem State.clearTrace_nmiPending : s.clearTrace.nmiPending = s.nmiPending := rfl
@[simp] theorem State.clearTrace_run : s.clearTrace.run = s.run := rfl
@[simp] theorem State.clearTrace_skipPoll : s.clearTrace.skipPoll = s.skipPoll := rfl
@[simp] theorem State.clearTrace_mem : s.clearTrace.mem = s.mem := rfl
@[simp] theorem State.clearTrace_trace : s.clearTrace.trace = [] := rfl
@[simp] theorem State.clearTrace_busTick : s.clearTrace.busTick = s.busTick := rfl
@[simp] theorem State.clearTrace_cfg : s.clearTrace.cfg = s.cfg := rfl

@[simp] theorem State.setNZ_eq (v : Byte) : s.setNZ v = s.setFlags (s.p.setNZ v) := rfl
@[simp] theorem State.setC_eq (b : Bool) : s.setC b = s.setFlags { s.p with c := b } := rfl

@[simp] theorem Flags.setNZ_n (q : Flags) (w : Byte) : (q.setNZ w).n = bit7 w := rfl
@[simp] theorem Flags.setNZ_v (q : Flags) (w : Byte) : (q.setNZ w).v = q.v := rfl
@[simp] theorem Flags.setNZ_t (q : Flags) (w : Byte) : (q.setNZ w).t = q.t := rfl
@[simp] theorem Flags.setNZ_d (q : Flags) (w : Byte) : (q.setNZ w).d = q.d := rfl
@[simp] theorem Flags.setNZ_i (q : Flags) (w : Byte) : (q.setNZ w).i = q.i := rfl
@[simp] theorem Flags.setNZ_z (q : Flags) (w : Byte) : (q.setNZ w).z = (w == 0#8) := rfl
@[simp] theorem Flags.setNZ_c (q : Flags) (w : Byte) : (q.setNZ w).c = q.c := rfl

@[simp] theorem Flags.setAlu_n (q : Flags) (r : AluResult) : (q.setAlu r).n = r.n := rfl
@[simp] theorem Flags.setAlu_v (q : Flags) (r : AluResult) : (q.setAlu r).v = r.v := rfl
@[simp] theorem Flags.setAlu_t (q : Flags) (r : AluResult) : (q.setAlu r).t = q.t := rfl
@[simp] theorem Flags.setAlu_d (q : Flags) (r : AluResult) : (q.setAlu r).d = q.d := rfl
@[simp] theorem Flags.setAlu_i (q : Flags) (r : AluResult) : (q.setAlu r).i = q.i := rfl
@[simp] theorem Flags.setAlu_z (q : Flags) (r : AluResult) : (q.setAlu r).z = r.z := rfl
@[simp] theorem Flags.setAlu_c (q : Flags) (r : AluResult) : (q.setAlu r).c = r.c := rfl

@[simp] theorem Flags.compare_n (q : Flags) (a m : Byte) : (q.compare a m).n = bit7 (a - m) := rfl
@[simp] theorem Flags.compare_v (q : Flags) (a m : Byte) : (q.compare a m).v = q.v := rfl
@[simp] theorem Flags.compare_t (q : Flags) (a m : Byte) : (q.compare a m).t = q.t := rfl
@[simp] theorem Flags.compare_d (q : Flags) (a m : Byte) : (q.compare a m).d = q.d := rfl
@[simp] theorem Flags.compare_i (q : Flags) (a m : Byte) : (q.compare a m).i = q.i := rfl
@[simp] theorem Flags.compare_z (q : Flags) (a m : Byte) : (q.compare a m).z = (a - m == 0#8) := rfl
@[simp] theorem Flags.compare_c (q : Flags) (a m : Byte) : (q.compare a m).c = decide (m.toNat ≤ a.toNat) := rfl

end Sys2Proof.Machine
end

