-- ==== Sys2Proof/Laws/Bus.lean ====
section
/-! SUPPORT. The laws of the bus and stack operations: what each access changes, what it leaves unchanged, and a read after a write. -/

namespace Sys2Proof.Machine

variable (s : State)

/-! ## Reads -/

@[simp] theorem State.read8_fst (a : Addr) : (s.read8 a).1 = s.busValue a := rfl

@[simp] theorem State.read8_snd (a : Addr) : (s.read8 a).2 = s.record (.read a (s.busValue a)) := rfl

@[simp] theorem State.record_kindAt (e : BusAccess) (a : Addr) : (s.record e).kindAt a = s.kindAt a := rfl

@[simp] theorem State.record_peek (e : BusAccess) (a : Addr) : (s.record e).peek a = s.peek a := rfl

/-- Outside the oracle locations the bus answers the byte that memory holds. -/
theorem State.busValue_of_not_oracle {s : State} {a : Addr} (h : s.kindAt a ≠ .oracle) : s.busValue a = s.peek a := by
  unfold State.busValue
  split
  · exact absurd ‹_› h
  · rfl
  · rfl

/-- What the bus answers depends on the memory, the memory map and the access counter alone. -/
theorem State.busValue_congr {s t : State} (a : Addr) (hm : t.mem = s.mem) (hc : t.cfg = s.cfg) (hb : t.busTick = s.busTick) :
    t.busValue a = s.busValue a := by
  simp only [State.busValue, State.kindAt, State.peek, hm, hc, hb]

/-! ## Writes -/

@[simp] theorem State.write8_a (a : Addr) (v : Byte) : (s.write8 a v).a = s.a := by
  unfold State.write8; split <;> rfl

@[simp] theorem State.write8_x (a : Addr) (v : Byte) : (s.write8 a v).x = s.x := by
  unfold State.write8; split <;> rfl

@[simp] theorem State.write8_y (a : Addr) (v : Byte) : (s.write8 a v).y = s.y := by
  unfold State.write8; split <;> rfl

@[simp] theorem State.write8_sp (a : Addr) (v : Byte) : (s.write8 a v).sp = s.sp := by
  unfold State.write8; split <;> rfl

@[simp] theorem State.write8_pc (a : Addr) (v : Byte) : (s.write8 a v).pc = s.pc := by
  unfold State.write8; split <;> rfl

@[simp] theorem State.write8_p (a : Addr) (v : Byte) : (s.write8 a v).p = s.p := by
  unfold State.write8; split <;> rfl

@[simp] theorem State.write8_lines (a : Addr) (v : Byte) : (s.write8 a v).lines = s.lines := by
  unfold State.write8; split <;> rfl

@[simp] theorem State.write8_nmiLevel (a : Addr) (v : Byte) : (s.write8 a v).nmiLevel = s.nmiLevel := by
  unfold State.write8; split <;> rfl

@[simp] theorem State.write8_nmiPending (a : Addr) (v : Byte) : (s.write8 a v).nmiPending = s.nmiPending := by
  unfold State.write8; split <;> rfl

@[simp] theorem State.write8_run (a : Addr) (v : Byte) : (s.write8 a v).run = s.run := by
  unfold State.write8; split <;> rfl

@[simp] theorem State.write8_skipPoll (a : Addr) (v : Byte) : (s.write8 a v).skipPoll = s.skipPoll := by
  unfold State.write8; split <;> rfl

@[simp] theorem State.write8_cfg (a : Addr) (v : Byte) : (s.write8 a v).cfg = s.cfg := by
  unfold State.write8; split <;> rfl

@[simp] theorem State.write8_trace (a : Addr) (v : Byte) : (s.write8 a v).trace = s.trace ++ [.write a v] := by
  unfold State.write8; split <;> rfl

@[simp] theorem State.write8_busTick (a : Addr) (v : Byte) : (s.write8 a v).busTick = s.busTick + 1 := by
  unfold State.write8; split <;> rfl

@[simp] theorem State.write8_kindAt (a b : Addr) (v : Byte) : (s.write8 a v).kindAt b = s.kindAt b := by
  simp only [State.kindAt, State.write8_cfg]

/-- A write changes memory at its own address at most. -/
theorem State.write8_peek_other {a b : Addr} (v : Byte) (h : b ≠ a) : (s.write8 a v).peek b = s.peek b := by
  have hn : b.toNat ≠ a.toNat := fun hab => h (BitVec.eq_of_toNat_eq hab)
  unfold State.write8
  split <;> simp [State.peek, State.record, Memory.read_write_other hn]

/-- Plain RAM holds the byte last written (R51). -/
theorem State.write8_peek_same {s : State} {a : Addr} (v : Byte) (hw : Memory.wf s.mem = true) (h : s.kindAt a = .ram) :
    (s.write8 a v).peek a = v := by
  simp [State.write8, h, State.peek, State.record, Memory.read_write_same hw]

/-- A write outside plain RAM leaves memory as it is. -/
theorem State.write8_mem_of_not_ram {s : State} {a : Addr} (v : Byte) (h : s.kindAt a ≠ .ram) : (s.write8 a v).mem = s.mem := by
  unfold State.write8
  split
  · exact absurd ‹_› h
  · rfl
  · rfl

theorem State.write8_wf {s : State} (a : Addr) (v : Byte) (hw : Memory.wf s.mem = true) :
    Memory.wf (s.write8 a v).mem = true := by
  unfold State.write8
  split
  · exact Memory.write_wf hw a.isLt
  · exact hw
  · exact hw

/-! ## The stack -/

@[simp] theorem State.stackAddr_eq (offset : Byte) : s.stackAddr offset = join s.cfg.stackPage offset := rfl

@[simp] theorem State.push_a (v : Byte) : (s.push v).a = s.a := by simp [State.push]

@[simp] theorem State.push_x (v : Byte) : (s.push v).x = s.x := by simp [State.push]

@[simp] theorem State.push_y (v : Byte) : (s.push v).y = s.y := by simp [State.push]

@[simp] theorem State.push_sp (v : Byte) : (s.push v).sp = s.sp - 1 := by simp [State.push]

@[simp] theorem State.push_pc (v : Byte) : (s.push v).pc = s.pc := by simp [State.push]

@[simp] theorem State.push_p (v : Byte) : (s.push v).p = s.p := by simp [State.push]

@[simp] theorem State.push_lines (v : Byte) : (s.push v).lines = s.lines := by simp [State.push]

@[simp] theorem State.push_nmiLevel (v : Byte) : (s.push v).nmiLevel = s.nmiLevel := by simp [State.push]

@[simp] theorem State.push_nmiPending (v : Byte) : (s.push v).nmiPending = s.nmiPending := by simp [State.push]

@[simp] theorem State.push_run (v : Byte) : (s.push v).run = s.run := by simp [State.push]

@[simp] theorem State.push_skipPoll (v : Byte) : (s.push v).skipPoll = s.skipPoll := by simp [State.push]

@[simp] theorem State.push_cfg (v : Byte) : (s.push v).cfg = s.cfg := by simp [State.push]

@[simp] theorem State.push_trace (v : Byte) : (s.push v).trace = s.trace ++ [.write (join s.cfg.stackPage s.sp) v] := by
  simp [State.push]

@[simp] theorem State.push_busTick (v : Byte) : (s.push v).busTick = s.busTick + 1 := by simp [State.push]

@[simp] theorem State.push_mem (v : Byte) : (s.push v).mem = (s.write8 (join s.cfg.stackPage s.sp) v).mem := rfl

@[simp] theorem State.push_kindAt (v : Byte) (b : Addr) : (s.push v).kindAt b = s.kindAt b := by
  simp only [State.kindAt, State.push_cfg]

theorem State.push_peek_other {b : Addr} (v : Byte) (h : b ≠ join s.cfg.stackPage s.sp) : (s.push v).peek b = s.peek b :=
  s.write8_peek_other v h

theorem State.push_peek_same {s : State} (v : Byte) (hw : Memory.wf s.mem = true)
    (h : s.kindAt (join s.cfg.stackPage s.sp) = .ram) : (s.push v).peek (join s.cfg.stackPage s.sp) = v :=
  State.write8_peek_same v hw h

theorem State.push_wf {s : State} (v : Byte) (hw : Memory.wf s.mem = true) : Memory.wf (s.push v).mem = true :=
  State.write8_wf _ _ hw

@[simp] theorem State.pull_fst : s.pull.1 = (s.setSP (s.sp + 1)).busValue (join s.cfg.stackPage (s.sp + 1)) := rfl

@[simp] theorem State.pull_snd :
    s.pull.2 = (s.setSP (s.sp + 1)).record (.read (join s.cfg.stackPage (s.sp + 1)) s.pull.1) := rfl

theorem join_getLsbD (hi lo : Byte) (i : Nat) :
    (join hi lo).getLsbD i = if i < 8 then lo.getLsbD i else hi.getLsbD (i - 8) :=
  BitVec.getLsbD_append

theorem lowByte_getLsbD (w : Addr) (i : Nat) : (lowByte w).getLsbD i = (decide (i < 8) && w.getLsbD i) := by
  simp [lowByte]

theorem highByte_getLsbD (w : Addr) (i : Nat) : (highByte w).getLsbD i = (decide (i < 8) && w.getLsbD (8 + i)) := by
  simp [highByte]

@[simp] theorem lowByte_join (hi lo : Byte) : lowByte (join hi lo) = lo := by
  apply BitVec.eq_of_getLsbD_eq
  intro i h
  rw [lowByte_getLsbD, join_getLsbD]
  simp [h]

@[simp] theorem highByte_join (hi lo : Byte) : highByte (join hi lo) = hi := by
  apply BitVec.eq_of_getLsbD_eq
  intro i h
  rw [highByte_getLsbD, join_getLsbD]
  simp [h]

@[simp] theorem join_highByte_lowByte (w : Addr) : join (highByte w) (lowByte w) = w := by
  apply BitVec.eq_of_getLsbD_eq
  intro i h
  rw [join_getLsbD, lowByte_getLsbD, highByte_getLsbD]
  by_cases hi : i < 8
  · simp [hi]
  · have h8 : 8 + (i - 8) = i := by omega
    have hj : i - 8 < 8 := by omega
    simp only [hi, if_false, h8, hj, decide_true, Bool.true_and]

theorem join_inj {hi hi' lo lo' : Byte} : join hi lo = join hi' lo' ↔ hi = hi' ∧ lo = lo' := by
  refine ⟨fun h => ⟨?_, ?_⟩, fun h => by rw [h.1, h.2]⟩
  · have := congrArg highByte h
    simpa using this
  · have := congrArg lowByte h
    simpa using this

theorem join_toNat (hi lo : Byte) : (join hi lo).toNat = 256 * hi.toNat + lo.toNat := by
  have h : 2 ^ 8 * hi.toNat + lo.toNat = 2 ^ 8 * hi.toNat ||| lo.toNat := Nat.two_pow_add_eq_or_of_lt lo.isLt hi.toNat
  have e : (join hi lo).toNat = 2 ^ 8 * hi.toNat ||| lo.toNat := by
    rw [join, BitVec.toNat_append, Nat.shiftLeft_eq, Nat.mul_comm]
  exact e.trans h.symm

theorem zeroPage_toNat (b : Byte) : (zeroPage b).toNat = b.toNat := by
  rw [zeroPage, join_toNat]
  simp

theorem zeroPage_eq (b : Byte) : zeroPage b = BitVec.ofNat 16 b.toNat := by
  apply BitVec.eq_of_toNat_eq
  rw [zeroPage_toNat, BitVec.toNat_ofNat]
  omega

theorem zeroPage_add (b c : Byte) : zeroPage (b + c) = BitVec.ofNat 16 ((b.toNat + c.toNat) % 256) := by
  rw [zeroPage_eq, BitVec.toNat_add]

theorem zext16_toNat (b : Byte) : (zext16 b).toNat = b.toNat := by
  simp only [zext16, BitVec.toNat_setWidth]
  omega

/-! ## Reads, with the bytes named: each is what memory holds, but at an oracle location -/

theorem State.read8_eq (a : Addr) : ∃ v, (s.kindAt a ≠ .oracle → v = s.peek a) ∧
    s.read8 a = (v, { s with trace := s.trace ++ [.read a v], busTick := s.busTick + 1 }) :=
  ⟨s.busValue a, State.busValue_of_not_oracle, rfl⟩

/-- Two reads in order. -/
theorem State.read_read_eq (a b : Addr) : ∃ v w, (s.kindAt a ≠ .oracle → v = s.peek a) ∧
    (s.kindAt b ≠ .oracle → w = s.peek b) ∧ (s.read8 a).1 = v ∧
    (s.read8 a).2.read8 b = (w, { s with trace := s.trace ++ [.read a v, .read b w], busTick := s.busTick + 2 }) := by
  refine ⟨s.busValue a, (s.read8 a).2.busValue b, State.busValue_of_not_oracle,
    State.busValue_of_not_oracle (s := (s.read8 a).2), rfl, ?_⟩
  ext1
  · rfl
  · ext1 <;> simp

/-- R133. -/
theorem State.read16_eq (a : Addr) : ∃ lo hi, (s.kindAt a ≠ .oracle → lo = s.peek a) ∧
    (s.kindAt (a + 1) ≠ .oracle → hi = s.peek (a + 1)) ∧
    s.read16 a = (join hi lo, { s with trace := s.trace ++ [.read a lo, .read (a + 1) hi], busTick := s.busTick + 2 }) := by
  obtain ⟨lo, hi, h, k, rfl, e⟩ := s.read_read_eq a (a + 1)
  refine ⟨_, hi, h, k, ?_⟩
  simp only [State.read16]
  rw [e]

/-- R133. -/
theorem State.read16zp_eq (p : Byte) : ∃ lo hi, (s.kindAt (zeroPage p) ≠ .oracle → lo = s.peek (zeroPage p)) ∧
    (s.kindAt (zeroPage (p + 1)) ≠ .oracle → hi = s.peek (zeroPage (p + 1))) ∧
    s.read16zp p = (join hi lo, { s with
      trace := s.trace ++ [.read (zeroPage p) lo, .read (zeroPage (p + 1)) hi], busTick := s.busTick + 2 }) := by
  obtain ⟨lo, hi, h, k, rfl, e⟩ := s.read_read_eq (zeroPage p) (zeroPage (p + 1))
  refine ⟨_, hi, h, k, ?_⟩
  simp only [State.read16zp]
  rw [e]

/-- R131. -/
theorem State.pull_eq : ∃ v, (s.kindAt (join s.cfg.stackPage (s.sp + 1)) ≠ .oracle → v = s.peek (join s.cfg.stackPage (s.sp + 1))) ∧
    s.pull = (v, { s with
      sp := s.sp + 1, trace := s.trace ++ [.read (join s.cfg.stackPage (s.sp + 1)) v], busTick := s.busTick + 1 }) :=
  (s.setSP (s.sp + 1)).read8_eq (join s.cfg.stackPage (s.sp + 1))

end Sys2Proof.Machine
end

