-- ==== Sys2Proof/Laws/Decode.lean ====
section
/-! SUPPORT. The laws of the decoder: what it reads from one, two and three bytes, and what it makes of the UNDEFINED and REFUSED bytes. -/

namespace Sys2Proof

theorem decode_one {op : Byte} (rest : List Byte) (h : opcodeLength op = 1) :
    decode (op :: rest) = .ok (decodeWith op 0#8 0#8) rest := by
  simp [decode, h]

theorem decode_two {op : Byte} (b1 : Byte) (rest : List Byte) (h : opcodeLength op = 2) :
    decode (op :: b1 :: rest) = .ok (decodeWith op b1 0#8) rest := by
  simp [decode, h]

theorem decode_three {op : Byte} (b1 b2 : Byte) (rest : List Byte) (h : opcodeLength op = 3) :
    decode (op :: b1 :: b2 :: rest) = .ok (decodeWith op b1 b2) rest := by
  simp [decode, h]

theorem undefined_decodes : ∀ op ∈ undefinedBytes, opcodeLength op = 1 ∧ decodeWith op 0#8 0#8 = .undefined op := by decide

theorem refused_decodes : ∀ op ∈ refusedBytes, opcodeLength op = 1 ∧ decodeWith op 0#8 0#8 = .refusedOpcode op := by decide

theorem wordOf_addrBytes (w : Addr) : wordOf (w.extractLsb' 0 8) (w.extractLsb' 8 8) = w := by
  apply BitVec.eq_of_getLsbD_eq
  intro i hi
  rw [wordOf, BitVec.getLsbD_append, BitVec.getLsbD_extractLsb', BitVec.getLsbD_extractLsb']
  by_cases h : i < 8
  · simp [h]
  · have h8 : 8 + (i - 8) = i := by omega
    have hj : i - 8 < 8 := by omega
    simp only [h, if_false, h8, hj, decide_true, Bool.true_and]

/-- A three-byte form with a 16-bit operand reads the operand back. -/
theorem decode_word {op : Byte} (w : Addr) (rest : List Byte) (k : Addr → Instr) (h : opcodeLength op = 3)
    (hk : ∀ b1 b2, decodeWith op b1 b2 = k (wordOf b1 b2)) : decode (op :: addrBytes w ++ rest) = .ok (k w) rest := by
  have hd := decode_three (w.extractLsb' 0 8) (w.extractLsb' 8 8) rest h
  rwa [hk, wordOf_addrBytes] at hd

end Sys2Proof
end

