-- ==== Sys2Proof/Laws/Operands.lean ====
section
/-! SUPPORT. The laws of the operand operations: what the addressing forms, Load, Store, Modify and the routing of T mode can change. -/

namespace Sys2Proof.Machine

/-! ## ReadsOnly and BusOnly -/

theorem State.ReadsOnly.refl (s : State) : s.ReadsOnly s := ⟨s.trace, s.busTick, rfl⟩

theorem State.ReadsOnly.trans {s t u : State} (h : s.ReadsOnly t) (k : t.ReadsOnly u) : s.ReadsOnly u := by
  obtain ⟨_, _, rfl⟩ := h
  obtain ⟨tr, n, rfl⟩ := k
  exact ⟨tr, n, rfl⟩

theorem State.ReadsOnly.busOnly {s t : State} (h : s.ReadsOnly t) : s.BusOnly t := by
  obtain ⟨tr, n, rfl⟩ := h
  exact ⟨s.mem, tr, n, rfl⟩

theorem State.BusOnly.refl (s : State) : s.BusOnly s := ⟨s.mem, s.trace, s.busTick, rfl⟩

theorem State.BusOnly.trans {s t u : State} (h : s.BusOnly t) (k : t.BusOnly u) : s.BusOnly u := by
  obtain ⟨_, _, _, rfl⟩ := h
  obtain ⟨m, tr, n, rfl⟩ := k
  exact ⟨m, tr, n, rfl⟩

theorem State.BusOnly.a_eq {s t : State} (h : s.BusOnly t) : t.a = s.a := by
  obtain ⟨_, _, _, rfl⟩ := h; rfl

theorem State.BusOnly.x_eq {s t : State} (h : s.BusOnly t) : t.x = s.x := by
  obtain ⟨_, _, _, rfl⟩ := h; rfl

theorem State.BusOnly.y_eq {s t : State} (h : s.BusOnly t) : t.y = s.y := by
  obtain ⟨_, _, _, rfl⟩ := h; rfl

theorem State.BusOnly.sp_eq {s t : State} (h : s.BusOnly t) : t.sp = s.sp := by
  obtain ⟨_, _, _, rfl⟩ := h; rfl

theorem State.BusOnly.pc_eq {s t : State} (h : s.BusOnly t) : t.pc = s.pc := by
  obtain ⟨_, _, _, rfl⟩ := h; rfl

theorem State.BusOnly.p_eq {s t : State} (h : s.BusOnly t) : t.p = s.p := by
  obtain ⟨_, _, _, rfl⟩ := h; rfl

theorem State.BusOnly.lines_eq {s t : State} (h : s.BusOnly t) : t.lines = s.lines := by
  obtain ⟨_, _, _, rfl⟩ := h; rfl

theorem State.BusOnly.nmiLevel_eq {s t : State} (h : s.BusOnly t) : t.nmiLevel = s.nmiLevel := by
  obtain ⟨_, _, _, rfl⟩ := h; rfl

theorem State.BusOnly.nmiPending_eq {s t : State} (h : s.BusOnly t) : t.nmiPending = s.nmiPending := by
  obtain ⟨_, _, _, rfl⟩ := h; rfl

theorem State.BusOnly.run_eq {s t : State} (h : s.BusOnly t) : t.run = s.run := by
  obtain ⟨_, _, _, rfl⟩ := h; rfl

theorem State.BusOnly.skipPoll_eq {s t : State} (h : s.BusOnly t) : t.skipPoll = s.skipPoll := by
  obtain ⟨_, _, _, rfl⟩ := h; rfl

theorem State.BusOnly.cfg_eq {s t : State} (h : s.BusOnly t) : t.cfg = s.cfg := by
  obtain ⟨_, _, _, rfl⟩ := h; rfl

theorem State.ReadsOnly.mem_eq {s t : State} (h : s.ReadsOnly t) : t.mem = s.mem := by
  obtain ⟨_, _, rfl⟩ := h; rfl

theorem State.ReadsOnly.peek_eq {s t : State} (h : s.ReadsOnly t) (a : Addr) : t.peek a = s.peek a := by
  obtain ⟨_, _, rfl⟩ := h; rfl

theorem State.ReadsOnly.wf {s t : State} (h : s.ReadsOnly t) (hw : Memory.wf s.mem = true) : Memory.wf t.mem = true := by
  rw [h.mem_eq]; exact hw

theorem State.BusOnly.kindAt_eq {s t : State} (h : s.BusOnly t) (a : Addr) : t.kindAt a = s.kindAt a := by
  obtain ⟨_, _, _, rfl⟩ := h; rfl

/-! ## What each operation can change -/

variable (s : State)

theorem State.read8_readsOnly (a : Addr) : s.ReadsOnly (s.read8 a).2 := ⟨_, _, rfl⟩

theorem State.write8_busOnly (a : Addr) (v : Byte) : s.BusOnly (s.write8 a v) := by
  unfold State.write8
  split <;> exact ⟨_, _, _, rfl⟩

theorem State.read16_readsOnly (a : Addr) : s.ReadsOnly (s.read16 a).2 := ⟨_, _, rfl⟩

theorem State.read16zp_readsOnly (p : Byte) : s.ReadsOnly (s.read16zp p).2 := ⟨_, _, rfl⟩

theorem State.effectiveAddress_readsOnly (f : MemForm) : s.ReadsOnly (s.effectiveAddress f).2 := by
  cases f
  case idx zz => exact s.read16zp_readsOnly _
  case idy zz => exact s.read16zp_readsOnly _
  all_goals exact .refl s

theorem State.loadMem_readsOnly (f : MemForm) : s.ReadsOnly (s.loadMem f).2 :=
  (s.effectiveAddress_readsOnly f).trans (State.read8_readsOnly _ _)

theorem State.load_readsOnly (f : Source) : s.ReadsOnly (s.load f).2 := by
  cases f
  case imm v => exact .refl s
  case mem f => exact s.loadMem_readsOnly f

theorem State.readDest_readsOnly : s.ReadsOnly s.readDest.2 := by
  unfold State.readDest
  split
  · exact s.read8_readsOnly _
  · exact .refl s

theorem State.routedOperands_readsOnly (f : Source) : s.ReadsOnly (s.routedOperands f).2 :=
  (s.load_readsOnly f).trans (State.readDest_readsOnly _)

theorem State.loadBitTarget_readsOnly (f : BitTarget) : s.ReadsOnly (s.loadBitTarget f).2 := by
  cases f
  case acc => exact .refl s
  case zp zz => exact s.read8_readsOnly _

theorem State.readIndirect_readsOnly (pointer : Addr) : s.ReadsOnly (s.readIndirect pointer).2 := ⟨_, _, rfl⟩

theorem State.jmpTarget_readsOnly (f : JmpTarget) : s.ReadsOnly (s.jmpTarget f).2 := by
  cases f
  case abs hhll => exact .refl s
  case ind hhll => exact s.readIndirect_readsOnly _
  case zpi zz => exact s.read16zp_readsOnly _

theorem State.jsrTarget_readsOnly (f : JsrTarget) : s.ReadsOnly (s.jsrTarget f).2 := by
  cases f
  case zpi zz => exact s.read16zp_readsOnly _
  all_goals exact .refl s

/-- R126, with the bytes named: each is what memory holds, but at an oracle location. -/
theorem State.readIndirect_eq (pointer : Addr) : ∃ lo hi, (s.kindAt pointer ≠ .oracle → lo = s.peek pointer) ∧
    (s.kindAt (s.indirectHigh pointer) ≠ .oracle → hi = s.peek (s.indirectHigh pointer)) ∧
    s.readIndirect pointer = (join hi lo, { s with
      trace := s.trace ++ [.read pointer lo, .read (s.indirectHigh pointer) hi], busTick := s.busTick + 2 }) := by
  obtain ⟨lo, hi, h, k, rfl, e⟩ := s.read_read_eq pointer (s.indirectHigh pointer)
  refine ⟨_, hi, h, k, ?_⟩
  have hq : (s.read8 pointer).2.indirectHigh pointer = s.indirectHigh pointer := rfl
  simp only [State.readIndirect]
  rw [hq, e]

/-- Store, with its address named. -/
theorem State.storeMem_eq (f : MemForm) (v : Byte) :
    s.storeMem f v = (s.effectiveAddress f).2.write8 (s.effectiveAddress f).1 v := rfl

/-- Load of a memory form, with its address named. -/
theorem State.loadMem_eq (f : MemForm) : s.loadMem f = (s.effectiveAddress f).2.read8 (s.effectiveAddress f).1 := rfl

/-- Modify of a memory form: one read, then one write, at the effective address. -/
theorem State.modify_mem_eq (f : MemForm) (g : Byte → Byte) :
    s.modify (.mem f) g = ((s.loadMem f).1, (s.loadMem f).2.write8 (s.effectiveAddress f).1 (g (s.loadMem f).1)) := rfl

theorem State.storeMem_busOnly (f : MemForm) (v : Byte) : s.BusOnly (s.storeMem f v) :=
  (s.effectiveAddress_readsOnly f).busOnly.trans (State.write8_busOnly _ _ _)

/-- A store changes memory at its effective address at most. -/
theorem State.storeMem_peek_other {b : Addr} (f : MemForm) (v : Byte) (h : b ≠ (s.effectiveAddress f).1) :
    (s.storeMem f v).peek b = s.peek b := by
  rw [← (s.effectiveAddress_readsOnly f).peek_eq b]
  exact State.write8_peek_other _ v h

theorem State.storeMem_wf {s : State} (f : MemForm) (v : Byte) (hw : Memory.wf s.mem = true) :
    Memory.wf (s.storeMem f v).mem = true :=
  State.write8_wf (s := (s.effectiveAddress f).2) _ _ ((s.effectiveAddress_readsOnly f).wf hw)

/-- Modify changes A alone, or the bus alone. -/
theorem State.modify_snd (f : Target) (g : Byte → Byte) :
    (s.modify f g).2 = s.setA (g s.a) ∨ s.BusOnly (s.modify f g).2 := by
  cases f
  case acc => exact .inl rfl
  case mem f =>
    exact .inr (((s.effectiveAddress_readsOnly f).trans (State.read8_readsOnly _ _)).busOnly.trans (State.write8_busOnly _ _ _))

theorem State.modify_wf {s : State} (f : Target) (g : Byte → Byte) (hw : Memory.wf s.mem = true) :
    Memory.wf (s.modify f g).2.mem = true := by
  cases f
  case acc => exact hw
  case mem f =>
    exact State.write8_wf (s := ((s.effectiveAddress f).2.read8 (s.effectiveAddress f).1).2) _ _
      (((s.effectiveAddress_readsOnly f).trans (State.read8_readsOnly _ _)).wf hw)

/-- The routed result goes to A with T clear, and to the zero-page byte at X with T set (R128). -/
theorem State.writeDest_of_clear {s : State} (r : Byte) (h : s.p.t = false) : s.writeDest r = s.setA r := by
  simp [State.writeDest, h]

theorem State.writeDest_of_set {s : State} (r : Byte) (h : s.p.t = true) : s.writeDest r = s.write8 (zeroPage s.x) r := by
  simp [State.writeDest, h]

theorem State.readDest_of_clear {s : State} (h : s.p.t = false) : s.readDest = (s.a, s) := by simp [State.readDest, h]

theorem State.readDest_of_set {s : State} (h : s.p.t = true) : s.readDest = s.read8 (zeroPage s.x) := by
  simp [State.readDest, h]

theorem State.writeDest_wf {s : State} (r : Byte) (hw : Memory.wf s.mem = true) : Memory.wf (s.writeDest r).mem = true := by
  unfold State.writeDest
  split
  · exact State.write8_wf _ _ hw
  · exact hw

/-! ## The same, field by field -/

@[simp] theorem State.effectiveAddress_snd_a (f : MemForm) : (s.effectiveAddress f).2.a = s.a := (s.effectiveAddress_readsOnly f).busOnly.a_eq
@[simp] theorem State.effectiveAddress_snd_x (f : MemForm) : (s.effectiveAddress f).2.x = s.x := (s.effectiveAddress_readsOnly f).busOnly.x_eq
@[simp] theorem State.effectiveAddress_snd_y (f : MemForm) : (s.effectiveAddress f).2.y = s.y := (s.effectiveAddress_readsOnly f).busOnly.y_eq
@[simp] theorem State.effectiveAddress_snd_sp (f : MemForm) : (s.effectiveAddress f).2.sp = s.sp := (s.effectiveAddress_readsOnly f).busOnly.sp_eq
@[simp] theorem State.effectiveAddress_snd_pc (f : MemForm) : (s.effectiveAddress f).2.pc = s.pc := (s.effectiveAddress_readsOnly f).busOnly.pc_eq
@[simp] theorem State.effectiveAddress_snd_p (f : MemForm) : (s.effectiveAddress f).2.p = s.p := (s.effectiveAddress_readsOnly f).busOnly.p_eq
@[simp] theorem State.effectiveAddress_snd_lines (f : MemForm) : (s.effectiveAddress f).2.lines = s.lines := (s.effectiveAddress_readsOnly f).busOnly.lines_eq
@[simp] theorem State.effectiveAddress_snd_nmiLevel (f : MemForm) : (s.effectiveAddress f).2.nmiLevel = s.nmiLevel := (s.effectiveAddress_readsOnly f).busOnly.nmiLevel_eq
@[simp] theorem State.effectiveAddress_snd_nmiPending (f : MemForm) : (s.effectiveAddress f).2.nmiPending = s.nmiPending := (s.effectiveAddress_readsOnly f).busOnly.nmiPending_eq
@[simp] theorem State.effectiveAddress_snd_run (f : MemForm) : (s.effectiveAddress f).2.run = s.run := (s.effectiveAddress_readsOnly f).busOnly.run_eq
@[simp] theorem State.effectiveAddress_snd_skipPoll (f : MemForm) : (s.effectiveAddress f).2.skipPoll = s.skipPoll := (s.effectiveAddress_readsOnly f).busOnly.skipPoll_eq
@[simp] theorem State.effectiveAddress_snd_cfg (f : MemForm) : (s.effectiveAddress f).2.cfg = s.cfg := (s.effectiveAddress_readsOnly f).busOnly.cfg_eq
@[simp] theorem State.effectiveAddress_snd_mem (f : MemForm) : (s.effectiveAddress f).2.mem = s.mem := (s.effectiveAddress_readsOnly f).mem_eq
@[simp] theorem State.effectiveAddress_snd_peek (f : MemForm) (b : Addr) : (s.effectiveAddress f).2.peek b = s.peek b := (s.effectiveAddress_readsOnly f).peek_eq b

@[simp] theorem State.loadMem_snd_a (f : MemForm) : (s.loadMem f).2.a = s.a := (s.loadMem_readsOnly f).busOnly.a_eq
@[simp] theorem State.loadMem_snd_x (f : MemForm) : (s.loadMem f).2.x = s.x := (s.loadMem_readsOnly f).busOnly.x_eq
@[simp] theorem State.loadMem_snd_y (f : MemForm) : (s.loadMem f).2.y = s.y := (s.loadMem_readsOnly f).busOnly.y_eq
@[simp] theorem State.loadMem_snd_sp (f : MemForm) : (s.loadMem f).2.sp = s.sp := (s.loadMem_readsOnly f).busOnly.sp_eq
@[simp] theorem State.loadMem_snd_pc (f : MemForm) : (s.loadMem f).2.pc = s.pc := (s.loadMem_readsOnly f).busOnly.pc_eq
@[simp] theorem State.loadMem_snd_p (f : MemForm) : (s.loadMem f).2.p = s.p := (s.loadMem_readsOnly f).busOnly.p_eq
@[simp] theorem State.loadMem_snd_lines (f : MemForm) : (s.loadMem f).2.lines = s.lines := (s.loadMem_readsOnly f).busOnly.lines_eq
@[simp] theorem State.loadMem_snd_nmiLevel (f : MemForm) : (s.loadMem f).2.nmiLevel = s.nmiLevel := (s.loadMem_readsOnly f).busOnly.nmiLevel_eq
@[simp] theorem State.loadMem_snd_nmiPending (f : MemForm) : (s.loadMem f).2.nmiPending = s.nmiPending := (s.loadMem_readsOnly f).busOnly.nmiPending_eq
@[simp] theorem State.loadMem_snd_run (f : MemForm) : (s.loadMem f).2.run = s.run := (s.loadMem_readsOnly f).busOnly.run_eq
@[simp] theorem State.loadMem_snd_skipPoll (f : MemForm) : (s.loadMem f).2.skipPoll = s.skipPoll := (s.loadMem_readsOnly f).busOnly.skipPoll_eq
@[simp] theorem State.loadMem_snd_cfg (f : MemForm) : (s.loadMem f).2.cfg = s.cfg := (s.loadMem_readsOnly f).busOnly.cfg_eq
@[simp] theorem State.loadMem_snd_mem (f : MemForm) : (s.loadMem f).2.mem = s.mem := (s.loadMem_readsOnly f).mem_eq
@[simp] theorem State.loadMem_snd_peek (f : MemForm) (b : Addr) : (s.loadMem f).2.peek b = s.peek b := (s.loadMem_readsOnly f).peek_eq b

@[simp] theorem State.load_snd_a (f : Source) : (s.load f).2.a = s.a := (s.load_readsOnly f).busOnly.a_eq
@[simp] theorem State.load_snd_x (f : Source) : (s.load f).2.x = s.x := (s.load_readsOnly f).busOnly.x_eq
@[simp] theorem State.load_snd_y (f : Source) : (s.load f).2.y = s.y := (s.load_readsOnly f).busOnly.y_eq
@[simp] theorem State.load_snd_sp (f : Source) : (s.load f).2.sp = s.sp := (s.load_readsOnly f).busOnly.sp_eq
@[simp] theorem State.load_snd_pc (f : Source) : (s.load f).2.pc = s.pc := (s.load_readsOnly f).busOnly.pc_eq
@[simp] theorem State.load_snd_p (f : Source) : (s.load f).2.p = s.p := (s.load_readsOnly f).busOnly.p_eq
@[simp] theorem State.load_snd_lines (f : Source) : (s.load f).2.lines = s.lines := (s.load_readsOnly f).busOnly.lines_eq
@[simp] theorem State.load_snd_nmiLevel (f : Source) : (s.load f).2.nmiLevel = s.nmiLevel := (s.load_readsOnly f).busOnly.nmiLevel_eq
@[simp] theorem State.load_snd_nmiPending (f : Source) : (s.load f).2.nmiPending = s.nmiPending := (s.load_readsOnly f).busOnly.nmiPending_eq
@[simp] theorem State.load_snd_run (f : Source) : (s.load f).2.run = s.run := (s.load_readsOnly f).busOnly.run_eq
@[simp] theorem State.load_snd_skipPoll (f : Source) : (s.load f).2.skipPoll = s.skipPoll := (s.load_readsOnly f).busOnly.skipPoll_eq
@[simp] theorem State.load_snd_cfg (f : Source) : (s.load f).2.cfg = s.cfg := (s.load_readsOnly f).busOnly.cfg_eq
@[simp] theorem State.load_snd_mem (f : Source) : (s.load f).2.mem = s.mem := (s.load_readsOnly f).mem_eq
@[simp] theorem State.load_snd_peek (f : Source) (b : Addr) : (s.load f).2.peek b = s.peek b := (s.load_readsOnly f).peek_eq b

@[simp] theorem State.readDest_snd_a : s.readDest.2.a = s.a := s.readDest_readsOnly.busOnly.a_eq
@[simp] theorem State.readDest_snd_x : s.readDest.2.x = s.x := s.readDest_readsOnly.busOnly.x_eq
@[simp] theorem State.readDest_snd_y : s.readDest.2.y = s.y := s.readDest_readsOnly.busOnly.y_eq
@[simp] theorem State.readDest_snd_sp : s.readDest.2.sp = s.sp := s.readDest_readsOnly.busOnly.sp_eq
@[simp] theorem State.readDest_snd_pc : s.readDest.2.pc = s.pc := s.readDest_readsOnly.busOnly.pc_eq
@[simp] theorem State.readDest_snd_p : s.readDest.2.p = s.p := s.readDest_readsOnly.busOnly.p_eq
@[simp] theorem State.readDest_snd_lines : s.readDest.2.lines = s.lines := s.readDest_readsOnly.busOnly.lines_eq
@[simp] theorem State.readDest_snd_nmiLevel : s.readDest.2.nmiLevel = s.nmiLevel := s.readDest_readsOnly.busOnly.nmiLevel_eq
@[simp] theorem State.readDest_snd_nmiPending : s.readDest.2.nmiPending = s.nmiPending := s.readDest_readsOnly.busOnly.nmiPending_eq
@[simp] theorem State.readDest_snd_run : s.readDest.2.run = s.run := s.readDest_readsOnly.busOnly.run_eq
@[simp] theorem State.readDest_snd_skipPoll : s.readDest.2.skipPoll = s.skipPoll := s.readDest_readsOnly.busOnly.skipPoll_eq
@[simp] theorem State.readDest_snd_cfg : s.readDest.2.cfg = s.cfg := s.readDest_readsOnly.busOnly.cfg_eq
@[simp] theorem State.readDest_snd_mem : s.readDest.2.mem = s.mem := s.readDest_readsOnly.mem_eq
@[simp] theorem State.readDest_snd_peek (b : Addr) : s.readDest.2.peek b = s.peek b := s.readDest_readsOnly.peek_eq b

@[simp] theorem State.routedOperands_snd_a (f : Source) : (s.routedOperands f).2.a = s.a := (s.routedOperands_readsOnly f).busOnly.a_eq
@[simp] theorem State.routedOperands_snd_x (f : Source) : (s.routedOperands f).2.x = s.x := (s.routedOperands_readsOnly f).busOnly.x_eq
@[simp] theorem State.routedOperands_snd_y (f : Source) : (s.routedOperands f).2.y = s.y := (s.routedOperands_readsOnly f).busOnly.y_eq
@[simp] theorem State.routedOperands_snd_sp (f : Source) : (s.routedOperands f).2.sp = s.sp := (s.routedOperands_readsOnly f).busOnly.sp_eq
@[simp] theorem State.routedOperands_snd_pc (f : Source) : (s.routedOperands f).2.pc = s.pc := (s.routedOperands_readsOnly f).busOnly.pc_eq
@[simp] theorem State.routedOperands_snd_p (f : Source) : (s.routedOperands f).2.p = s.p := (s.routedOperands_readsOnly f).busOnly.p_eq
@[simp] theorem State.routedOperands_snd_lines (f : Source) : (s.routedOperands f).2.lines = s.lines := (s.routedOperands_readsOnly f).busOnly.lines_eq
@[simp] theorem State.routedOperands_snd_nmiLevel (f : Source) : (s.routedOperands f).2.nmiLevel = s.nmiLevel := (s.routedOperands_readsOnly f).busOnly.nmiLevel_eq
@[simp] theorem State.routedOperands_snd_nmiPending (f : Source) : (s.routedOperands f).2.nmiPending = s.nmiPending := (s.routedOperands_readsOnly f).busOnly.nmiPending_eq
@[simp] theorem State.routedOperands_snd_run (f : Source) : (s.routedOperands f).2.run = s.run := (s.routedOperands_readsOnly f).busOnly.run_eq
@[simp] theorem State.routedOperands_snd_skipPoll (f : Source) : (s.routedOperands f).2.skipPoll = s.skipPoll := (s.routedOperands_readsOnly f).busOnly.skipPoll_eq
@[simp] theorem State.routedOperands_snd_cfg (f : Source) : (s.routedOperands f).2.cfg = s.cfg := (s.routedOperands_readsOnly f).busOnly.cfg_eq
@[simp] theorem State.routedOperands_snd_mem (f : Source) : (s.routedOperands f).2.mem = s.mem := (s.routedOperands_readsOnly f).mem_eq
@[simp] theorem State.routedOperands_snd_peek (f : Source) (b : Addr) : (s.routedOperands f).2.peek b = s.peek b := (s.routedOperands_readsOnly f).peek_eq b

@[simp] theorem State.loadBitTarget_snd_a (f : BitTarget) : (s.loadBitTarget f).2.a = s.a := (s.loadBitTarget_readsOnly f).busOnly.a_eq
@[simp] theorem State.loadBitTarget_snd_x (f : BitTarget) : (s.loadBitTarget f).2.x = s.x := (s.loadBitTarget_readsOnly f).busOnly.x_eq
@[simp] theorem State.loadBitTarget_snd_y (f : BitTarget) : (s.loadBitTarget f).2.y = s.y := (s.loadBitTarget_readsOnly f).busOnly.y_eq
@[simp] theorem State.loadBitTarget_snd_sp (f : BitTarget) : (s.loadBitTarget f).2.sp = s.sp := (s.loadBitTarget_readsOnly f).busOnly.sp_eq
@[simp] theorem State.loadBitTarget_snd_pc (f : BitTarget) : (s.loadBitTarget f).2.pc = s.pc := (s.loadBitTarget_readsOnly f).busOnly.pc_eq
@[simp] theorem State.loadBitTarget_snd_p (f : BitTarget) : (s.loadBitTarget f).2.p = s.p := (s.loadBitTarget_readsOnly f).busOnly.p_eq
@[simp] theorem State.loadBitTarget_snd_lines (f : BitTarget) : (s.loadBitTarget f).2.lines = s.lines := (s.loadBitTarget_readsOnly f).busOnly.lines_eq
@[simp] theorem State.loadBitTarget_snd_nmiLevel (f : BitTarget) : (s.loadBitTarget f).2.nmiLevel = s.nmiLevel := (s.loadBitTarget_readsOnly f).busOnly.nmiLevel_eq
@[simp] theorem State.loadBitTarget_snd_nmiPending (f : BitTarget) : (s.loadBitTarget f).2.nmiPending = s.nmiPending := (s.loadBitTarget_readsOnly f).busOnly.nmiPending_eq
@[simp] theorem State.loadBitTarget_snd_run (f : BitTarget) : (s.loadBitTarget f).2.run = s.run := (s.loadBitTarget_readsOnly f).busOnly.run_eq
@[simp] theorem State.loadBitTarget_snd_skipPoll (f : BitTarget) : (s.loadBitTarget f).2.skipPoll = s.skipPoll := (s.loadBitTarget_readsOnly f).busOnly.skipPoll_eq
@[simp] theorem State.loadBitTarget_snd_cfg (f : BitTarget) : (s.loadBitTarget f).2.cfg = s.cfg := (s.loadBitTarget_readsOnly f).busOnly.cfg_eq
@[simp] theorem State.loadBitTarget_snd_mem (f : BitTarget) : (s.loadBitTarget f).2.mem = s.mem := (s.loadBitTarget_readsOnly f).mem_eq
@[simp] theorem State.loadBitTarget_snd_peek (f : BitTarget) (b : Addr) : (s.loadBitTarget f).2.peek b = s.peek b := (s.loadBitTarget_readsOnly f).peek_eq b

@[simp] theorem State.jmpTarget_snd_a (f : JmpTarget) : (s.jmpTarget f).2.a = s.a := (s.jmpTarget_readsOnly f).busOnly.a_eq
@[simp] theorem State.jmpTarget_snd_x (f : JmpTarget) : (s.jmpTarget f).2.x = s.x := (s.jmpTarget_readsOnly f).busOnly.x_eq
@[simp] theorem State.jmpTarget_snd_y (f : JmpTarget) : (s.jmpTarget f).2.y = s.y := (s.jmpTarget_readsOnly f).busOnly.y_eq
@[simp] theorem State.jmpTarget_snd_sp (f : JmpTarget) : (s.jmpTarget f).2.sp = s.sp := (s.jmpTarget_readsOnly f).busOnly.sp_eq
@[simp] theorem State.jmpTarget_snd_pc (f : JmpTarget) : (s.jmpTarget f).2.pc = s.pc := (s.jmpTarget_readsOnly f).busOnly.pc_eq
@[simp] theorem State.jmpTarget_snd_p (f : JmpTarget) : (s.jmpTarget f).2.p = s.p := (s.jmpTarget_readsOnly f).busOnly.p_eq
@[simp] theorem State.jmpTarget_snd_lines (f : JmpTarget) : (s.jmpTarget f).2.lines = s.lines := (s.jmpTarget_readsOnly f).busOnly.lines_eq
@[simp] theorem State.jmpTarget_snd_nmiLevel (f : JmpTarget) : (s.jmpTarget f).2.nmiLevel = s.nmiLevel := (s.jmpTarget_readsOnly f).busOnly.nmiLevel_eq
@[simp] theorem State.jmpTarget_snd_nmiPending (f : JmpTarget) : (s.jmpTarget f).2.nmiPending = s.nmiPending := (s.jmpTarget_readsOnly f).busOnly.nmiPending_eq
@[simp] theorem State.jmpTarget_snd_run (f : JmpTarget) : (s.jmpTarget f).2.run = s.run := (s.jmpTarget_readsOnly f).busOnly.run_eq
@[simp] theorem State.jmpTarget_snd_skipPoll (f : JmpTarget) : (s.jmpTarget f).2.skipPoll = s.skipPoll := (s.jmpTarget_readsOnly f).busOnly.skipPoll_eq
@[simp] theorem State.jmpTarget_snd_cfg (f : JmpTarget) : (s.jmpTarget f).2.cfg = s.cfg := (s.jmpTarget_readsOnly f).busOnly.cfg_eq
@[simp] theorem State.jmpTarget_snd_mem (f : JmpTarget) : (s.jmpTarget f).2.mem = s.mem := (s.jmpTarget_readsOnly f).mem_eq
@[simp] theorem State.jmpTarget_snd_peek (f : JmpTarget) (b : Addr) : (s.jmpTarget f).2.peek b = s.peek b := (s.jmpTarget_readsOnly f).peek_eq b

@[simp] theorem State.jsrTarget_snd_a (f : JsrTarget) : (s.jsrTarget f).2.a = s.a := (s.jsrTarget_readsOnly f).busOnly.a_eq
@[simp] theorem State.jsrTarget_snd_x (f : JsrTarget) : (s.jsrTarget f).2.x = s.x := (s.jsrTarget_readsOnly f).busOnly.x_eq
@[simp] theorem State.jsrTarget_snd_y (f : JsrTarget) : (s.jsrTarget f).2.y = s.y := (s.jsrTarget_readsOnly f).busOnly.y_eq
@[simp] theorem State.jsrTarget_snd_sp (f : JsrTarget) : (s.jsrTarget f).2.sp = s.sp := (s.jsrTarget_readsOnly f).busOnly.sp_eq
@[simp] theorem State.jsrTarget_snd_pc (f : JsrTarget) : (s.jsrTarget f).2.pc = s.pc := (s.jsrTarget_readsOnly f).busOnly.pc_eq
@[simp] theorem State.jsrTarget_snd_p (f : JsrTarget) : (s.jsrTarget f).2.p = s.p := (s.jsrTarget_readsOnly f).busOnly.p_eq
@[simp] theorem State.jsrTarget_snd_lines (f : JsrTarget) : (s.jsrTarget f).2.lines = s.lines := (s.jsrTarget_readsOnly f).busOnly.lines_eq
@[simp] theorem State.jsrTarget_snd_nmiLevel (f : JsrTarget) : (s.jsrTarget f).2.nmiLevel = s.nmiLevel := (s.jsrTarget_readsOnly f).busOnly.nmiLevel_eq
@[simp] theorem State.jsrTarget_snd_nmiPending (f : JsrTarget) : (s.jsrTarget f).2.nmiPending = s.nmiPending := (s.jsrTarget_readsOnly f).busOnly.nmiPending_eq
@[simp] theorem State.jsrTarget_snd_run (f : JsrTarget) : (s.jsrTarget f).2.run = s.run := (s.jsrTarget_readsOnly f).busOnly.run_eq
@[simp] theorem State.jsrTarget_snd_skipPoll (f : JsrTarget) : (s.jsrTarget f).2.skipPoll = s.skipPoll := (s.jsrTarget_readsOnly f).busOnly.skipPoll_eq
@[simp] theorem State.jsrTarget_snd_cfg (f : JsrTarget) : (s.jsrTarget f).2.cfg = s.cfg := (s.jsrTarget_readsOnly f).busOnly.cfg_eq
@[simp] theorem State.jsrTarget_snd_mem (f : JsrTarget) : (s.jsrTarget f).2.mem = s.mem := (s.jsrTarget_readsOnly f).mem_eq
@[simp] theorem State.jsrTarget_snd_peek (f : JsrTarget) (b : Addr) : (s.jsrTarget f).2.peek b = s.peek b := (s.jsrTarget_readsOnly f).peek_eq b

end Sys2Proof.Machine
end

