-- ==== Sys2Proof/Laws/Undefined.lean ====
section
/-! SUPPORT. The two lists of arms agree: an UNDEFINED byte that executes as an admitted form does what `exec` does with that form. -/

namespace Sys2Proof.Machine

/-- An admitted instruction means the same through `execAdmitted` and through `exec`. -/
theorem execAdmitted_eq_exec {i : Instr} (s : State) (h : i.admitted = true) : execAdmitted i s = exec i s := by
  cases i
  case undefined => cases h
  case refusedOpcode => cases h
  all_goals rfl

/-- An UNDEFINED byte without a meaning in the configuration is refused. -/
theorem execUndefined_of_none {op : Byte} {s : State} (h : meaningOf s.cfg op = none) :
    execUndefined op s = .refused (.undefinedOpcode op s.pc) := by
  unfold execUndefined
  rw [h]

/-- An UNDEFINED byte with a meaning in the configuration executes it. -/
theorem execUndefined_of_some {op : Byte} {s : State} {m : OpcodeMeaning} (h : meaningOf s.cfg op = some m) :
    execUndefined op s = execAdmitted (s.fetchOperands m.opcode).1
      ((s.fetchOperands m.opcode).2.fetchIgnored (m.length - (s.fetchOperands m.opcode).1.length)) := by
  unfold execUndefined
  rw [h]

/-- The meaning the configuration gives to a byte is one it lists for that byte. -/
theorem meaningOf_eq_some {cfg : Config} {op : Byte} {m : OpcodeMeaning} (h : meaningOf cfg op = some m) :
    m ∈ cfg.undefinedOpcodeMeaning ∧ m.undefinedByte = op :=
  ⟨List.mem_of_find?_eq_some h, by simpa using List.find?_some h⟩

end Sys2Proof.Machine
end

