-- ==== Sys2Proof/Laws/Exec.lean ====
section
/-! SUPPORT. What every operation and every meaning keeps: the parameters, the interrupt inputs, and the canonical form of memory; and, once for
all instructions, what a meaning can do to the run state and to `skipPoll`. -/

namespace Sys2Proof.Machine

/-- `t` differs from `s` in the programmer's registers, the flags, memory and the record of the bus at most, and memory stays
canonical. -/
structure State.Keeps (s t : State) : Prop where
  cfg : t.cfg = s.cfg
  lines : t.lines = s.lines
  nmiLevel : t.nmiLevel = s.nmiLevel
  nmiPending : t.nmiPending = s.nmiPending
  skipPoll : t.skipPoll = s.skipPoll
  run : t.run = s.run
  wf : Memory.wf s.mem = true → Memory.wf t.mem = true

theorem State.Keeps.refl (s : State) : s.Keeps s := ⟨rfl, rfl, rfl, rfl, rfl, rfl, id⟩

theorem State.Keeps.trans {s t u : State} (h : s.Keeps t) (k : t.Keeps u) : s.Keeps u :=
  ⟨k.cfg.trans h.cfg, k.lines.trans h.lines, k.nmiLevel.trans h.nmiLevel, k.nmiPending.trans h.nmiPending,
    k.skipPoll.trans h.skipPoll, k.run.trans h.run, k.wf ∘ h.wf⟩

theorem State.ReadsOnly.keeps {s t : State} (h : s.ReadsOnly t) : s.Keeps t := by
  obtain ⟨_, _, rfl⟩ := h
  exact ⟨rfl, rfl, rfl, rfl, rfl, rfl, id⟩

/-! ## The operations -/

variable (s : State)

theorem State.setA_keeps (v : Byte) : s.Keeps (s.setA v) := ⟨rfl, rfl, rfl, rfl, rfl, rfl, id⟩

theorem State.setX_keeps (v : Byte) : s.Keeps (s.setX v) := ⟨rfl, rfl, rfl, rfl, rfl, rfl, id⟩

theorem State.setY_keeps (v : Byte) : s.Keeps (s.setY v) := ⟨rfl, rfl, rfl, rfl, rfl, rfl, id⟩

theorem State.setSP_keeps (v : Byte) : s.Keeps (s.setSP v) := ⟨rfl, rfl, rfl, rfl, rfl, rfl, id⟩

theorem State.setPC_keeps (w : Addr) : s.Keeps (s.setPC w) := ⟨rfl, rfl, rfl, rfl, rfl, rfl, id⟩

theorem State.setFlags_keeps (q : Flags) : s.Keeps (s.setFlags q) := ⟨rfl, rfl, rfl, rfl, rfl, rfl, id⟩

theorem State.clearTrace_keeps : s.Keeps s.clearTrace := ⟨rfl, rfl, rfl, rfl, rfl, rfl, id⟩

theorem State.write8_keeps (a : Addr) (v : Byte) : s.Keeps (s.write8 a v) := by
  constructor <;> first | exact State.write8_wf a v | simp

theorem State.push_keeps (v : Byte) : s.Keeps (s.push v) := (s.write8_keeps _ v).trans (State.setSP_keeps _ _)

theorem State.pull_keeps : s.Keeps s.pull.2 := (s.setSP_keeps _).trans (State.read8_readsOnly _ _).keeps

theorem State.pushPC_keeps (w : Addr) : s.Keeps (s.pushPC w) := (s.push_keeps _).trans (State.push_keeps _ _)

theorem State.pullPC_keeps : s.Keeps s.pullPC.2 := s.pull_keeps.trans (State.pull_keeps _)

theorem State.pullFlags_keeps : s.Keeps s.pullFlags := s.pull_keeps.trans (State.setFlags_keeps _ _)

theorem State.fetchByte_keeps : s.Keeps s.fetchByte.2 := (s.read8_readsOnly _).keeps.trans (State.setPC_keeps _ _)

theorem State.fetchOperands_keeps (op : Byte) : s.Keeps (s.fetchOperands op).2 := by
  unfold State.fetchOperands
  split
  · exact s.fetchByte_keeps
  · exact s.fetchByte_keeps.trans (State.fetchByte_keeps _)
  · exact .refl s

theorem State.fetchIgnored_keeps (n : Nat) : ∀ s : State, s.Keeps (s.fetchIgnored n) := by
  induction n with
  | zero => exact .refl
  | succ n ih => exact fun s => s.fetchByte_keeps.trans (ih _)

theorem State.writeDest_keeps (r : Byte) : s.Keeps (s.writeDest r) := by
  unfold State.writeDest
  split
  · exact s.write8_keeps _ r
  · exact s.setA_keeps r

theorem State.storeMem_keeps (f : MemForm) (v : Byte) : s.Keeps (s.storeMem f v) :=
  (s.effectiveAddress_readsOnly f).keeps.trans (State.write8_keeps _ _ _)

theorem State.modify_keeps (f : Target) (g : Byte → Byte) : s.Keeps (s.modify f g).2 := by
  cases f
  case acc => exact s.setA_keeps _
  case mem f => exact (s.loadMem_readsOnly f).keeps.trans (State.write8_keeps _ _ _)

theorem State.routedNZ_keeps (f : Source) (op : Byte → Byte → Byte) : s.Keeps (s.routedNZ f op) :=
  ((s.routedOperands_readsOnly f).keeps.trans (State.writeDest_keeps _ _)).trans (State.setFlags_keeps _ _)

theorem State.compareWith_keeps (r : Byte) (f : Source) : s.Keeps (s.compareWith r f) :=
  (s.load_readsOnly f).keeps.trans (State.setFlags_keeps _ _)

theorem State.modifyNZ_keeps (f : Target) (g : Byte → Byte) : s.Keeps (s.modifyNZ f g) :=
  (s.modify_keeps f g).trans (State.setFlags_keeps _ _)

theorem State.shift_keeps (f : Target) (g : Byte → Byte) (out : Nat) : s.Keeps (s.shift f g out) :=
  (s.modify_keeps f g).trans ((State.setFlags_keeps _ _).trans (State.setFlags_keeps _ _))

theorem State.branch_keeps (cond : Bool) (rel : Byte) : s.Keeps (s.branch cond rel) := by
  unfold State.branch
  split
  · exact s.setPC_keeps _
  · exact .refl s

theorem State.returnFromInterrupt_keeps : s.Keeps s.returnFromInterrupt :=
  s.pullFlags_keeps.trans ((State.pullPC_keeps _).trans (State.setPC_keeps _ _))

theorem State.pushFrame_keeps (b : Bool) : s.Keeps (s.pushFrame b) := (s.pushPC_keeps _).trans (State.push_keeps _ _)

/-- An entry keeps everything but the NMI latch and `skipPoll`. -/
theorem State.entry_keeps (src : EntrySource) :
    ∃ u, { s with nmiPending := src.latchAfter s.nmiPending }.Keeps u ∧ s.entry src = { u with skipPoll := true } := by
  let s0 : State := { s with nmiPending := src.latchAfter s.nmiPending }
  let s1 := s0.pushFrame src.breakBit
  let s2 := s1.setFlags { s1.p with i := s1.cfg.entryIValue }
  have h : s0.Keeps s2 := (s0.pushFrame_keeps _).trans (State.setFlags_keeps _ _)
  exact ⟨(s2.read16 (s0.entryVector src)).2.setPC (s2.read16 (s0.entryVector src)).1,
    (h.trans (State.read16_readsOnly _ _).keeps).trans (State.setPC_keeps _ _), rfl⟩

/-! ## The routed meanings, with their operands named -/

theorem exec_adc_eq (f : Source) : exec (.adc f) s =
    let ops := s.routedOperands f
    let result := ops.2.addWith ops.1.1 ops.1.2
    .next ((ops.2.writeDest result.r).setFlags (ops.2.p.setAlu result)) := rfl

theorem exec_sbc_eq (f : Source) : exec (.sbc f) s =
    let ops := s.routedOperands f
    let result := ops.2.subWith ops.1.1 ops.1.2
    .next ((ops.2.writeDest result.r).setFlags (ops.2.p.setAlu result)) := rfl

theorem exec_cmp_eq (f : Source) : exec (.cmp f) s =
    let ops := s.routedOperands f
    .next (ops.2.setFlags (ops.2.p.compare ops.1.1 ops.1.2)) := rfl

theorem State.routedNZ_eq (f : Source) (op : Byte → Byte → Byte) : s.routedNZ f op =
    let ops := s.routedOperands f
    (ops.2.writeDest (op ops.1.1 ops.1.2)).setNZ (op ops.1.1 ops.1.2) := rfl

/-! ## What the meanings keep -/

/-- The outcome of a meaning that runs: the state is kept but for a change of the run state or of `skipPoll` at the end. -/
def State.Ends (s : State) (o : Host.Outcome State Fault Refusal) : Prop :=
  ∃ u, s.Keeps u ∧ (o = .next u ∨ o = .next { u with run := .waiting } ∨ o = .next { u with run := .stopped } ∨
    o = .next { u with skipPoll := true })

variable {s}

theorem State.Keeps.ends {t : State} (h : s.Keeps t) : s.Ends (.next t) := ⟨t, h, .inl rfl⟩

/-- Every admitted instruction ends so. -/
theorem exec_ends {i : Instr} (s : State) (h : i.admitted = true) : s.Ends (exec i s) := by
  cases i
  case undefined => cases h
  case refusedOpcode => cases h
  case wit => exact ⟨s, .refl s, .inr (.inl rfl)⟩
  case stp => exact ⟨s, .refl s, .inr (.inr (.inl rfl))⟩
  case brk signature =>
    obtain ⟨u, hu, he⟩ := s.entry_keeps .brk
    exact ⟨u, hu, .inr (.inr (.inr (congrArg _ he)))⟩
  case adc f =>
    exact (((s.routedOperands_readsOnly f).keeps.trans (State.writeDest_keeps _ _)).trans (State.setFlags_keeps _ _)).ends
  case sbc f =>
    exact (((s.routedOperands_readsOnly f).keeps.trans (State.writeDest_keeps _ _)).trans (State.setFlags_keeps _ _)).ends
  case cmp f => exact ((s.routedOperands_readsOnly f).keeps.trans (State.setFlags_keeps _ _)).ends
  case cpx f => exact (s.compareWith_keeps _ f).ends
  case cpy f => exact (s.compareWith_keeps _ f).ends
  case inc f => exact (s.modifyNZ_keeps f _).ends
  case dec f => exact (s.modifyNZ_keeps f _).ends
  case inx => exact ((s.setX_keeps _).trans (State.setFlags_keeps _ _)).ends
  case iny => exact ((s.setY_keeps _).trans (State.setFlags_keeps _ _)).ends
  case dex => exact ((s.setX_keeps _).trans (State.setFlags_keeps _ _)).ends
  case dey => exact ((s.setY_keeps _).trans (State.setFlags_keeps _ _)).ends
  case and f => exact (s.routedNZ_keeps f _).ends
  case ora f => exact (s.routedNZ_keeps f _).ends
  case eor f => exact (s.routedNZ_keeps f _).ends
  case bit f => exact ((s.loadMem_readsOnly f).keeps.trans (State.setFlags_keeps _ _)).ends
  case com zz => exact (s.modifyNZ_keeps (.mem (.zp zz)) _).ends
  case tst zz => exact ((s.read8_readsOnly _).keeps.trans (State.setFlags_keeps _ _)).ends
  case asl f => exact (s.shift_keeps f _ _).ends
  case lsr f => exact (s.shift_keeps f _ _).ends
  case rol f => exact (s.shift_keeps f _ _).ends
  case ror f => exact (s.shift_keeps f _ _).ends
  case lda f => exact (s.routedNZ_keeps f _).ends
  case ldx f => exact ((s.load_readsOnly f).keeps.trans ((State.setX_keeps _ _).trans (State.setFlags_keeps _ _))).ends
  case ldy f => exact ((s.load_readsOnly f).keeps.trans ((State.setY_keeps _ _).trans (State.setFlags_keeps _ _))).ends
  case ldm v zz => exact (s.write8_keeps _ v).ends
  case sta f => exact (s.storeMem_keeps f _).ends
  case stx f => exact (s.storeMem_keeps f _).ends
  case sty f => exact (s.storeMem_keeps f _).ends
  case tax => exact ((s.setX_keeps _).trans (State.setFlags_keeps _ _)).ends
  case tay => exact ((s.setY_keeps _).trans (State.setFlags_keeps _ _)).ends
  case txa => exact ((s.setA_keeps _).trans (State.setFlags_keeps _ _)).ends
  case tya => exact ((s.setA_keeps _).trans (State.setFlags_keeps _ _)).ends
  case tsx => exact ((s.setX_keeps _).trans (State.setFlags_keeps _ _)).ends
  case txs => exact (s.setSP_keeps _).ends
  case pha => exact (s.push_keeps _).ends
  case php => exact (s.push_keeps _).ends
  case pla => exact (s.pull_keeps.trans ((State.setA_keeps _ _).trans (State.setFlags_keeps _ _))).ends
  case plp => exact s.pullFlags_keeps.ends
  case jmp f => exact ((s.jmpTarget_readsOnly f).keeps.trans (State.setPC_keeps _ _)).ends
  case jsr f =>
    exact ((s.jsrTarget_readsOnly f).keeps.trans ((State.pushPC_keeps _ _).trans (State.setPC_keeps _ _))).ends
  case rts => exact (s.pullPC_keeps.trans (State.setPC_keeps _ _)).ends
  case rti => exact s.returnFromInterrupt_keeps.ends
  case seb n f => exact (s.modify_keeps _ _).ends
  case clb n f => exact (s.modify_keeps _ _).ends
  case bbs n f rel => exact ((s.loadBitTarget_readsOnly f).keeps.trans (State.branch_keeps _ _ _)).ends
  case bbc n f rel => exact ((s.loadBitTarget_readsOnly f).keeps.trans (State.branch_keeps _ _ _)).ends
  case rrf zz => exact (s.modify_keeps _ _).ends
  case nop => exact (State.Keeps.refl s).ends
  case bpl rel => exact (s.branch_keeps _ rel).ends
  case bmi rel => exact (s.branch_keeps _ rel).ends
  case bvc rel => exact (s.branch_keeps _ rel).ends
  case bvs rel => exact (s.branch_keeps _ rel).ends
  case bcc rel => exact (s.branch_keeps _ rel).ends
  case bcs rel => exact (s.branch_keeps _ rel).ends
  case bne rel => exact (s.branch_keeps _ rel).ends
  case beq rel => exact (s.branch_keeps _ rel).ends
  case bra rel => exact (s.branch_keeps _ rel).ends
  all_goals exact (s.setFlags_keeps _).ends

/-- Whatever the instruction: it ends so, or it is refused; it never faults. -/
theorem exec_ends_or_refused (i : Instr) (s : State) : s.Ends (exec i s) ∨ ∃ r, exec i s = .refused r := by
  by_cases h : i.admitted = true
  · exact .inl (exec_ends s h)
  · cases i
    case refusedOpcode op => exact .inr ⟨_, rfl⟩
    case undefined op =>
      cases hm : meaningOf s.cfg op with
      | none => exact .inr ⟨_, execUndefined_of_none hm⟩
      | some m =>
        have he : exec (.undefined op) s = _ := execUndefined_of_some hm
        generalize hi : (s.fetchOperands m.opcode).1 = i at he
        have hk := (s.fetchOperands_keeps m.opcode).trans
          (State.fetchIgnored_keeps (m.length - i.length) (s.fetchOperands m.opcode).2)
        by_cases ha : i.admitted = true
        · obtain ⟨u, hu, ho⟩ := exec_ends ((s.fetchOperands m.opcode).2.fetchIgnored (m.length - i.length)) ha
          rw [he, execAdmitted_eq_exec _ ha]
          exact .inl ⟨u, hk.trans hu, ho⟩
        · rw [he]
          cases i
          case undefined => exact .inr ⟨_, rfl⟩
          case refusedOpcode => exact .inr ⟨_, rfl⟩
          all_goals exact absurd rfl ha
    all_goals exact absurd rfl h

end Sys2Proof.Machine
end

