-- ==== Sys2Proof/Laws/PerInstr.lean ====
section
/-! SUPPORT. The statements made per instruction, one lemma per constructor of `Instr`. -/

namespace Sys2Proof.Laws

/-- The length of an instruction (R80) is the number of bytes of its encoding (R81). -/
def EncodeLength.Statement (i : Instr) : Prop := (encode i).length = i.length

namespace EncodeLength

theorem adc (f : Source) : Statement (.adc f) := by
  rcases f with _ | f
  · rfl
  · cases f <;> rfl

theorem sbc (f : Source) : Statement (.sbc f) := by
  rcases f with _ | f
  · rfl
  · cases f <;> rfl

theorem cmp (f : Source) : Statement (.cmp f) := by
  rcases f with _ | f
  · rfl
  · cases f <;> rfl

theorem cpx (f : Source) : Statement (.cpx f) := by
  rcases f with _ | f
  · rfl
  · cases f <;> rfl

theorem cpy (f : Source) : Statement (.cpy f) := by
  rcases f with _ | f
  · rfl
  · cases f <;> rfl

theorem inc (f : Target) : Statement (.inc f) := by
  rcases f with _ | f
  · rfl
  · cases f <;> rfl

theorem dec (f : Target) : Statement (.dec f) := by
  rcases f with _ | f
  · rfl
  · cases f <;> rfl

theorem inx : Statement .inx := rfl

theorem iny : Statement .iny := rfl

theorem dex : Statement .dex := rfl

theorem dey : Statement .dey := rfl

theorem and (f : Source) : Statement (.and f) := by
  rcases f with _ | f
  · rfl
  · cases f <;> rfl

theorem ora (f : Source) : Statement (.ora f) := by
  rcases f with _ | f
  · rfl
  · cases f <;> rfl

theorem eor (f : Source) : Statement (.eor f) := by
  rcases f with _ | f
  · rfl
  · cases f <;> rfl

theorem bit (f : MemForm) : Statement (.bit f) := by cases f <;> rfl

theorem com (zz : Byte) : Statement (.com zz) := rfl

theorem tst (zz : Byte) : Statement (.tst zz) := rfl

theorem asl (f : Target) : Statement (.asl f) := by
  rcases f with _ | f
  · rfl
  · cases f <;> rfl

theorem lsr (f : Target) : Statement (.lsr f) := by
  rcases f with _ | f
  · rfl
  · cases f <;> rfl

theorem rol (f : Target) : Statement (.rol f) := by
  rcases f with _ | f
  · rfl
  · cases f <;> rfl

theorem ror (f : Target) : Statement (.ror f) := by
  rcases f with _ | f
  · rfl
  · cases f <;> rfl

theorem lda (f : Source) : Statement (.lda f) := by
  rcases f with _ | f
  · rfl
  · cases f <;> rfl

theorem ldx (f : Source) : Statement (.ldx f) := by
  rcases f with _ | f
  · rfl
  · cases f <;> rfl

theorem ldy (f : Source) : Statement (.ldy f) := by
  rcases f with _ | f
  · rfl
  · cases f <;> rfl

theorem ldm (value : Byte) (zz : Byte) : Statement (.ldm value zz) := rfl

theorem sta (f : MemForm) : Statement (.sta f) := by cases f <;> rfl

theorem stx (f : MemForm) : Statement (.stx f) := by cases f <;> rfl

theorem sty (f : MemForm) : Statement (.sty f) := by cases f <;> rfl

theorem tax : Statement .tax := rfl

theorem tay : Statement .tay := rfl

theorem txa : Statement .txa := rfl

theorem tya : Statement .tya := rfl

theorem tsx : Statement .tsx := rfl

theorem txs : Statement .txs := rfl

theorem pha : Statement .pha := rfl

theorem php : Statement .php := rfl

theorem pla : Statement .pla := rfl

theorem plp : Statement .plp := rfl

theorem bpl (rel : Byte) : Statement (.bpl rel) := rfl

theorem bmi (rel : Byte) : Statement (.bmi rel) := rfl

theorem bvc (rel : Byte) : Statement (.bvc rel) := rfl

theorem bvs (rel : Byte) : Statement (.bvs rel) := rfl

theorem bcc (rel : Byte) : Statement (.bcc rel) := rfl

theorem bcs (rel : Byte) : Statement (.bcs rel) := rfl

theorem bne (rel : Byte) : Statement (.bne rel) := rfl

theorem beq (rel : Byte) : Statement (.beq rel) := rfl

theorem bra (rel : Byte) : Statement (.bra rel) := rfl

theorem jmp (f : JmpTarget) : Statement (.jmp f) := by cases f <;> rfl

theorem jsr (f : JsrTarget) : Statement (.jsr f) := by cases f <;> rfl

theorem rts : Statement .rts := rfl

theorem rti : Statement .rti := rfl

theorem brk (signature : Byte) : Statement (.brk signature) := rfl

theorem seb (i : BitVec 3) (f : BitTarget) : Statement (.seb i f) := by cases f <;> rfl

theorem clb (i : BitVec 3) (f : BitTarget) : Statement (.clb i f) := by cases f <;> rfl

theorem bbs (i : BitVec 3) (f : BitTarget) (rel : Byte) : Statement (.bbs i f rel) := by cases f <;> rfl

theorem bbc (i : BitVec 3) (f : BitTarget) (rel : Byte) : Statement (.bbc i f rel) := by cases f <;> rfl

theorem rrf (zz : Byte) : Statement (.rrf zz) := rfl

theorem clc : Statement .clc := rfl

theorem sec : Statement .sec := rfl

theorem cli : Statement .cli := rfl

theorem sei : Statement .sei := rfl

theorem cld : Statement .cld := rfl

theorem sed : Statement .sed := rfl

theorem clv : Statement .clv := rfl

theorem clt : Statement .clt := rfl

theorem setT : Statement .setT := rfl

theorem nop : Statement .nop := rfl

theorem wit : Statement .wit := rfl

theorem stp : Statement .stp := rfl

theorem undefined (op : Byte) : Statement (.undefined op) := rfl

theorem refusedOpcode (op : Byte) : Statement (.refusedOpcode op) := rfl

end EncodeLength

end Sys2Proof.Laws
end

