-- ==== Sys2Proof/Laws/Stack.lean ====
section
/-! SUPPORT. The laws of the stack operations, of the frame of an entry and of the return: each whole effect, said once. -/

namespace Sys2Proof.Machine

theorem sub_one_sub_one (v : Byte) : v - 1#8 - 1#8 = v - 2#8 := by bv_omega

theorem sub_two_sub_one (v : Byte) : v - 2#8 - 1#8 = v - 3#8 := by bv_omega

theorem add_one_add_one (v : Byte) : v + 1#8 + 1#8 = v + 2#8 := by bv_omega

theorem add_two_add_one (v : Byte) : v + 2#8 + 1#8 = v + 3#8 := by bv_omega

theorem stack_addr_ne {page p q : Byte} (h : p ≠ q) : join page p ≠ join page q := fun he => h (join_inj.mp he).2

variable (s : State)

/-- A push, but for memory (R130). -/
theorem State.push_eq (v : Byte) : s.push v = { s with
    sp := s.sp - 1, mem := (s.push v).mem
    trace := s.trace ++ [.write (join s.cfg.stackPage s.sp) v], busTick := s.busTick + 1 } := by
  ext1 <;> simp

/-- PushPC, but for memory (R132). -/
theorem State.pushPC_eq (w : Addr) : s.pushPC w = { s with
    sp := s.sp - 2, mem := (s.pushPC w).mem
    trace := s.trace ++ [.write (join s.cfg.stackPage s.sp) (highByte w), .write (join s.cfg.stackPage (s.sp - 1)) (lowByte w)]
    busTick := s.busTick + 2 } := by
  ext1 <;> simp [State.pushPC, sub_one_sub_one]

/-- PushPC changes memory at its two stack bytes at most. -/
theorem State.pushPC_peek_other {b : Addr} (w : Addr) (h0 : b ≠ join s.cfg.stackPage s.sp)
    (h1 : b ≠ join s.cfg.stackPage (s.sp - 1)) : (s.pushPC w).peek b = s.peek b := by
  unfold State.pushPC
  rw [State.push_peek_other _ _ (by simpa using h1), State.push_peek_other _ _ h0]

variable {s}

theorem State.pushPC_wf (w : Addr) (hw : Memory.wf s.mem = true) : Memory.wf (s.pushPC w).mem = true :=
  State.push_wf _ (State.push_wf _ hw)

/-- The high byte is at the higher address (R132). -/
theorem State.pushPC_peek_high (w : Addr) (hw : Memory.wf s.mem = true) (h : s.kindAt (join s.cfg.stackPage s.sp) = .ram) :
    (s.pushPC w).peek (join s.cfg.stackPage s.sp) = highByte w := by
  unfold State.pushPC
  rw [State.push_peek_other _ _ (by simpa using stack_addr_ne (by bv_omega)), State.push_peek_same _ hw h]

theorem State.pushPC_peek_low (w : Addr) (hw : Memory.wf s.mem = true)
    (h : s.kindAt (join s.cfg.stackPage (s.sp - 1)) = .ram) :
    (s.pushPC w).peek (join s.cfg.stackPage (s.sp - 1)) = lowByte w := by
  have key := State.push_peek_same (s := s.push (highByte w)) (lowByte w) (State.push_wf _ hw)
  simp only [State.push_cfg, State.push_sp, State.push_kindAt] at key
  exact key h

variable (s)

/-- The frame of an entry, but for memory (R320). -/
theorem State.pushFrame_eq (b : Bool) : s.pushFrame b = { s with
    sp := s.sp - 3, mem := (s.pushFrame b).mem
    trace := s.trace ++ [.write (join s.cfg.stackPage s.sp) (highByte s.pc), .write (join s.cfg.stackPage (s.sp - 1)) (lowByte s.pc),
      .write (join s.cfg.stackPage (s.sp - 2)) (packP s.p b)]
    busTick := s.busTick + 3 } := by
  ext1 <;> simp [State.pushFrame, State.pushPC, sub_one_sub_one, sub_two_sub_one]

/-- The frame changes memory at its three stack bytes at most. -/
theorem State.pushFrame_peek_other {c : Addr} (b : Bool) (h0 : c ≠ join s.cfg.stackPage s.sp)
    (h1 : c ≠ join s.cfg.stackPage (s.sp - 1)) (h2 : c ≠ join s.cfg.stackPage (s.sp - 2)) :
    (s.pushFrame b).peek c = s.peek c := by
  unfold State.pushFrame
  rw [State.push_peek_other _ _ (by rw [State.pushPC_eq]; exact h2), State.pushPC_peek_other _ _ h0 h1]

variable {s}

theorem State.pushFrame_wf (b : Bool) (hw : Memory.wf s.mem = true) : Memory.wf (s.pushFrame b).mem = true :=
  State.push_wf _ (State.pushPC_wf _ hw)

theorem State.pushFrame_peek_high (b : Bool) (hw : Memory.wf s.mem = true) (h : s.kindAt (join s.cfg.stackPage s.sp) = .ram) :
    (s.pushFrame b).peek (join s.cfg.stackPage s.sp) = highByte s.pc := by
  unfold State.pushFrame
  rw [State.push_peek_other _ _ (by rw [State.pushPC_eq]; exact stack_addr_ne (by bv_omega)), State.pushPC_peek_high _ hw h]

theorem State.pushFrame_peek_low (b : Bool) (hw : Memory.wf s.mem = true)
    (h : s.kindAt (join s.cfg.stackPage (s.sp - 1)) = .ram) :
    (s.pushFrame b).peek (join s.cfg.stackPage (s.sp - 1)) = lowByte s.pc := by
  unfold State.pushFrame
  rw [State.push_peek_other _ _ (by rw [State.pushPC_eq]; exact stack_addr_ne (by bv_omega)), State.pushPC_peek_low _ hw h]

theorem State.pushFrame_peek_status (b : Bool) (hw : Memory.wf s.mem = true)
    (h : s.kindAt (join s.cfg.stackPage (s.sp - 2)) = .ram) :
    (s.pushFrame b).peek (join s.cfg.stackPage (s.sp - 2)) = packP s.p b := by
  have key := State.push_peek_same (s := s.pushPC s.pc) (packP s.p b) (State.pushPC_wf _ hw)
  rw [show (s.pushPC s.pc).cfg = s.cfg by rw [State.pushPC_eq], show (s.pushPC s.pc).sp = s.sp - 2 by rw [State.pushPC_eq],
    show (s.pushPC s.pc).kindAt = s.kindAt by rw [State.pushPC_eq]; rfl] at key
  exact key h

variable (s)

/-- PullPC (R132): the low byte first. -/
theorem State.pullPC_eq : ∃ lo hi,
    (s.kindAt (join s.cfg.stackPage (s.sp + 1)) ≠ .oracle → lo = s.peek (join s.cfg.stackPage (s.sp + 1))) ∧
    (s.kindAt (join s.cfg.stackPage (s.sp + 2)) ≠ .oracle → hi = s.peek (join s.cfg.stackPage (s.sp + 2))) ∧
    s.pullPC = (join hi lo, { s with
      sp := s.sp + 2
      trace := s.trace ++ [.read (join s.cfg.stackPage (s.sp + 1)) lo, .read (join s.cfg.stackPage (s.sp + 2)) hi]
      busTick := s.busTick + 2 }) := by
  obtain ⟨lo, h, e⟩ := s.pull_eq
  obtain ⟨hi, k, f⟩ := s.pull.2.pull_eq
  have hs : s.pull.2.sp + 1 = s.sp + 2 := add_one_add_one s.sp
  rw [hs] at k f
  refine ⟨lo, hi, h, k, ?_⟩
  simp only [State.pullPC]
  rw [f, e]
  simp

/-- The return from a handler (R325): the status byte, then PC, low byte first. -/
theorem State.returnFromInterrupt_eq : ∃ v lo hi,
    (s.kindAt (join s.cfg.stackPage (s.sp + 1)) ≠ .oracle → v = s.peek (join s.cfg.stackPage (s.sp + 1))) ∧
    (s.kindAt (join s.cfg.stackPage (s.sp + 2)) ≠ .oracle → lo = s.peek (join s.cfg.stackPage (s.sp + 2))) ∧
    (s.kindAt (join s.cfg.stackPage (s.sp + 3)) ≠ .oracle → hi = s.peek (join s.cfg.stackPage (s.sp + 3))) ∧
    s.returnFromInterrupt = { s with
      pc := join hi lo, sp := s.sp + 3, p := unpackP v
      trace := s.trace ++ [.read (join s.cfg.stackPage (s.sp + 1)) v, .read (join s.cfg.stackPage (s.sp + 2)) lo,
        .read (join s.cfg.stackPage (s.sp + 3)) hi]
      busTick := s.busTick + 3 } := by
  obtain ⟨v, h, e⟩ := s.pull_eq
  have hf : s.pullFlags = { s with
      sp := s.sp + 1, p := unpackP v
      trace := s.trace ++ [.read (join s.cfg.stackPage (s.sp + 1)) v], busTick := s.busTick + 1 } := by
    simp only [State.pullFlags, e, State.setFlags]
  obtain ⟨lo, hi, k, l, f⟩ := s.pullFlags.pullPC_eq
  have h2 : s.pullFlags.sp + 1 = s.sp + 2 := add_one_add_one s.sp
  have h3 : s.pullFlags.sp + 2 = s.sp + 3 := by
    show s.sp + 1 + 2 = s.sp + 3
    bv_omega
  rw [h2, h3] at f
  rw [h2] at k
  rw [h3] at l
  refine ⟨v, lo, hi, h, k, l, ?_⟩
  simp only [State.returnFromInterrupt, f]
  rw [hf]
  simp [State.setPC]

/-- The rest of an entry (R320). -/
theorem State.goThroughVector_eq (vec : Addr) : ∃ lo hi, (s.kindAt vec ≠ .oracle → lo = s.peek vec) ∧
    (s.kindAt (vec + 1) ≠ .oracle → hi = s.peek (vec + 1)) ∧
    s.goThroughVector vec = { s with
      pc := join hi lo, p := { s.p with i := s.cfg.entryIValue }, skipPoll := true
      trace := s.trace ++ [.read vec lo, .read (vec + 1) hi], busTick := s.busTick + 2 } := by
  obtain ⟨lo, hi, h, k, e⟩ := (s.setFlags { s.p with i := s.cfg.entryIValue }).read16_eq vec
  refine ⟨lo, hi, h, k, ?_⟩
  simp only [State.goThroughVector, e]
  rfl

end Sys2Proof.Machine
end

