-- ==== Sys2Proof/Laws/Step.lean ====
section
/-! SUPPORT. What a step can do, said once: it serves the selected interrupt, or it executes one instruction, which keeps the host's state; and the
laws of the host's moves and of the line set. -/

namespace Sys2Proof.Machine

theorem State.Ends.next {s t : State} (h : s.Ends (.next t)) :
    ∃ u, s.Keeps u ∧ (t = u ∨ t = { u with run := .waiting } ∨ t = { u with run := .stopped } ∨ t = { u with skipPoll := true }) := by
  obtain ⟨u, hu, h⟩ := h
  refine ⟨u, hu, ?_⟩
  rcases h with h | h | h | h <;> cases h <;> simp

theorem State.fetchInstr_keeps (s : State) : ({ s with skipPoll := false } : State).Keeps s.fetchInstr.2 :=
  (State.fetchByte_keeps _).trans (State.fetchOperands_keeps _ _)

/-- A step that has a next state serves an interrupt or executes an instruction. -/
theorem step_cases {s t : State} (h : step s = .next t) :
    (s.interruptTakeable = true ∧ t = s.clearTrace.serveInterrupt ∧ s.run ≠ .stopped ∧ (s.run = .running → s.skipPoll = false)) ∨
    (s.run = .running ∧ (s.skipPoll = true ∨ s.interruptTakeable = false) ∧
      exec s.clearTrace.fetchInstr.1 s.clearTrace.fetchInstr.2 = .next t ∧
      ∃ u, ({ s with skipPoll := false } : State).Keeps u ∧
        (t = u ∨ t = { u with run := .waiting } ∨ t = { u with run := .stopped } ∨ t = { u with skipPoll := true })) := by
  unfold step at h
  split at h
  · cases h
  · split at h
    · cases h
      simp_all
    · cases h
  · split at h
    · cases h
      simp_all
    · rename_i hrun hpoll
      have hexec : exec s.clearTrace.fetchInstr.1 s.clearTrace.fetchInstr.2 = .next t := h
      refine .inr ⟨hrun, ?_, hexec, ?_⟩
      · cases hs : s.skipPoll <;> simp_all
      · have hk : ({ s with skipPoll := false } : State).Keeps { s.clearTrace with skipPoll := false } :=
          ⟨rfl, rfl, rfl, rfl, rfl, rfl, id⟩
        rcases exec_ends_or_refused s.clearTrace.fetchInstr.1 s.clearTrace.fetchInstr.2 with he | ⟨r, he⟩
        · rw [hexec] at he
          obtain ⟨u, hu, ho⟩ := he.next
          exact ⟨u, (hk.trans (State.fetchInstr_keeps _)).trans hu, ho⟩
        · rw [hexec] at he
          cases he

/-- The source an entry serves at a boundary where an interrupt is takeable (R315). -/
theorem State.selectedSource_cases (s : State) :
    (s.cfg.hasNmi = true ∧ s.nmiPending = true ∧ s.selectedSource = .nmi) ∨
    (¬(s.cfg.hasNmi = true ∧ s.nmiPending = true) ∧ s.selectedSource = .line ((lowestLine s.lines).getD 0)) := by
  unfold State.selectedSource
  split <;> simp_all

/-- The lowest asserted line (R313). -/
theorem lowestLine_eq_some {lines : BitVec 15} {n : Nat} (hn : n < 15) (h : lines.getLsbD n = true)
    (hm : ∀ m, m < n → lines.getLsbD m = false) : lowestLine lines = some n := by
  unfold lowestLine
  rw [List.find?_range_eq_some]
  simp_all

theorem lineVector_eq (cfg : Config) (n : Nat) : lineVector cfg n = BitVec.ofInt 16 ((cfg.baseVector.toNat : Int) - 2 * n) := by
  unfold lineVector
  apply BitVec.eq_of_toNat_eq
  rw [BitVec.toNat_sub, BitVec.toNat_ofInt, BitVec.toNat_ofNat]
  have := cfg.baseVector.isLt
  omega

theorem setLineBit_getLsbD {lines : BitVec 15} {line n : Nat} (level : Bool) (hn : n < 15) (hl : line < 15) :
    (setLineBit lines line level).getLsbD n = if n = line then level else lines.getLsbD n := by
  unfold setLineBit
  cases level <;> simp [hn]
  · by_cases h : n = line
    · subst h
      simp
    · simp [h]
      intro _
      omega
  · by_cases h : n = line
    · subst h
      simp
    · simp [h]
      intro _
      omega

end Sys2Proof.Machine
end

