-- ==== Sys2Proof/Tests/Slice0.lean ====
section
/-! SUPPORT. The model's own tests: ill-formed instructions that WellFormed refuses, words written out from the encodings of
spec/30_encoding.md, single steps with the results of spec/95_test_vectors.md, and a witness for the hypotheses of every
obligation. -/

open Sys2Proof Sys2Proof.Machine Sys2Proof.Certificates

namespace Sys2Proof.Tests

/-! ## Ill-formed instructions (R89: the forms the table does not have) -/

theorem test_no_adc_zero_page_y : (Instr.adc (.mem (.zpy 0x10#8))).wf = false := by decide

theorem test_no_cpx_zero_page_x : (Instr.cpx (.mem (.zpx 0x10#8))).wf = false := by decide

theorem test_no_ldx_zero_page_x : (Instr.ldx (.mem (.zpx 0x10#8))).wf = false := by decide

theorem test_no_ldy_zero_page_y : (Instr.ldy (.mem (.zpy 0x10#8))).wf = false := by decide

theorem test_no_inc_absolute_y : (Instr.inc (.mem (.aby 0x1234#16))).wf = false := by decide

theorem test_no_sta_zero_page_y : (Instr.sta (.zpy 0x10#8)).wf = false := by decide

theorem test_no_stx_zero_page_x : (Instr.stx (.zpx 0x10#8)).wf = false := by decide

theorem test_no_sty_zero_page_y : (Instr.sty (.zpy 0x10#8)).wf = false := by decide

theorem test_no_bit_zero_page_x : (Instr.bit (.zpx 0x10#8)).wf = false := by decide

theorem test_brk_is_not_undefined : (Instr.undefined 0x00#8).wf = false := by decide

theorem test_undefined_is_not_refused : (Instr.refusedOpcode 0x04#8).wf = false := by decide

/-! ## Words from the encodings of R81, R82, R85 and R89 -/

theorem test_decode_accumulator_forms :
    decode [0x69, 0x05] = .ok (.adc (.imm 0x05)) [] ∧ decode [0x65, 0x10] = .ok (.adc (.mem (.zp 0x10))) [] ∧
    decode [0x75, 0x10] = .ok (.adc (.mem (.zpx 0x10))) [] ∧ decode [0x6D, 0x34, 0x12] = .ok (.adc (.mem (.abs 0x1234))) [] ∧
    decode [0x7D, 0x34, 0x12] = .ok (.adc (.mem (.abx 0x1234))) [] ∧ decode [0x79, 0x34, 0x12] = .ok (.adc (.mem (.aby 0x1234))) [] ∧
    decode [0x61, 0x10] = .ok (.adc (.mem (.idx 0x10))) [] ∧ decode [0x71, 0x10] = .ok (.adc (.mem (.idy 0x10))) [] := by decide

theorem test_decode_arithmetic :
    decode [0xE9, 0x80] = .ok (.sbc (.imm 0x80)) [] ∧ decode [0xD1, 0x80] = .ok (.cmp (.mem (.idy 0x80))) [] ∧
    decode [0xE4, 0x10] = .ok (.cpx (.mem (.zp 0x10))) [] ∧ decode [0xCC, 0x34, 0x12] = .ok (.cpy (.mem (.abs 0x1234))) [] ∧
    decode [0x3A] = .ok (.inc .acc) [] ∧ decode [0xFE, 0xFF, 0xFF] = .ok (.inc (.mem (.abx 0xFFFF))) [] ∧
    decode [0x1A] = .ok (.dec .acc) [] ∧ decode [0xC6, 0x10] = .ok (.dec (.mem (.zp 0x10))) [] ∧
    decode [0xE8] = .ok .inx [] ∧ decode [0xC8] = .ok .iny [] ∧ decode [0xCA] = .ok .dex [] ∧ decode [0x88] = .ok .dey [] := by
  decide

theorem test_decode_logic_and_shift :
    decode [0x21, 0xFF] = .ok (.and (.mem (.idx 0xFF))) [] ∧ decode [0x19, 0x00, 0x80] = .ok (.ora (.mem (.aby 0x8000))) [] ∧
    decode [0x4D, 0x01, 0x80] = .ok (.eor (.mem (.abs 0x8001))) [] ∧ decode [0x24, 0x40] = .ok (.bit (.zp 0x40)) [] ∧
    decode [0x2C, 0x34, 0x12] = .ok (.bit (.abs 0x1234)) [] ∧ decode [0x44, 0x20] = .ok (.com 0x20) [] ∧
    decode [0x64, 0x30] = .ok (.tst 0x30) [] ∧ decode [0x0A] = .ok (.asl .acc) [] ∧
    decode [0x06, 0x10] = .ok (.asl (.mem (.zp 0x10))) [] ∧ decode [0x0E, 0x00, 0x02] = .ok (.asl (.mem (.abs 0x0200))) [] ∧
    decode [0x56, 0x10] = .ok (.lsr (.mem (.zpx 0x10))) [] ∧ decode [0x2A] = .ok (.rol .acc) [] ∧
    decode [0x7E, 0x34, 0x12] = .ok (.ror (.mem (.abx 0x1234))) [] := by decide

theorem test_decode_loads_and_stores :
    decode [0xB5, 0x40] = .ok (.lda (.mem (.zpx 0x40))) [] ∧ decode [0xA2, 0xFF] = .ok (.ldx (.imm 0xFF)) [] ∧
    decode [0xB6, 0x10] = .ok (.ldx (.mem (.zpy 0x10))) [] ∧ decode [0xBE, 0x34, 0x12] = .ok (.ldx (.mem (.aby 0x1234))) [] ∧
    decode [0xA0, 0x02] = .ok (.ldy (.imm 0x02)) [] ∧ decode [0xBC, 0x34, 0x12] = .ok (.ldy (.mem (.abx 0x1234))) [] ∧
    decode [0x3C, 0x5A, 0x20] = .ok (.ldm 0x5A 0x20) [] ∧ decode [0x91, 0x20] = .ok (.sta (.idy 0x20)) [] ∧
    decode [0x99, 0x34, 0x12] = .ok (.sta (.aby 0x1234)) [] ∧ decode [0x96, 0xFF] = .ok (.stx (.zpy 0xFF)) [] ∧
    decode [0x94, 0xFF] = .ok (.sty (.zpx 0xFF)) [] := by decide

theorem test_decode_transfers_and_stack :
    decode [0xAA] = .ok .tax [] ∧ decode [0xA8] = .ok .tay [] ∧ decode [0x8A] = .ok .txa [] ∧ decode [0x98] = .ok .tya [] ∧
    decode [0xBA] = .ok .tsx [] ∧ decode [0x9A] = .ok .txs [] ∧ decode [0x48] = .ok .pha [] ∧ decode [0x08] = .ok .php [] ∧
    decode [0x68] = .ok .pla [] ∧ decode [0x28] = .ok .plp [] := by decide

theorem test_decode_control :
    decode [0x10, 0x7F] = .ok (.bpl 0x7F) [] ∧ decode [0x30, 0x80] = .ok (.bmi 0x80) [] ∧ decode [0x50, 0x01] = .ok (.bvc 0x01) [] ∧
    decode [0x70, 0x02] = .ok (.bvs 0x02) [] ∧ decode [0x90, 0x03] = .ok (.bcc 0x03) [] ∧ decode [0xB0, 0x04] = .ok (.bcs 0x04) [] ∧
    decode [0xD0, 0x05] = .ok (.bne 0x05) [] ∧ decode [0xF0, 0x06] = .ok (.beq 0x06) [] ∧ decode [0x80, 0x07] = .ok (.bra 0x07) [] ∧
    decode [0x4C, 0x00, 0xC0] = .ok (.jmp (.abs 0xC000)) [] ∧ decode [0x6C, 0xFF, 0x12] = .ok (.jmp (.ind 0x12FF)) [] ∧
    decode [0xB2, 0xFF] = .ok (.jmp (.zpi 0xFF)) [] ∧ decode [0x20, 0x00, 0x20] = .ok (.jsr (.abs 0x2000)) [] ∧
    decode [0x02, 0x40] = .ok (.jsr (.zpi 0x40)) [] ∧ decode [0x22, 0x80] = .ok (.jsr (.sp 0x80)) [] ∧
    decode [0x60] = .ok .rts [] ∧ decode [0x40] = .ok .rti [] ∧ decode [0x00, 0xEA] = .ok (.brk 0xEA) [] := by decide

theorem test_decode_bit_manipulation :
    decode [0x6F, 0x20] = .ok (.seb 3 (.zp 0x20)) [] ∧ decode [0xEB] = .ok (.seb 7 .acc) [] ∧
    decode [0x7F, 0x20] = .ok (.clb 3 (.zp 0x20)) [] ∧ decode [0x1B] = .ok (.clb 0 .acc) [] ∧
    decode [0x47, 0x10, 0x05] = .ok (.bbs 2 (.zp 0x10) 0x05) [] ∧ decode [0xA3, 0x05] = .ok (.bbs 5 .acc 0x05) [] ∧
    decode [0xF7, 0x20, 0x02] = .ok (.bbc 7 (.zp 0x20) 0x02) [] ∧ decode [0xF3, 0xFE] = .ok (.bbc 7 .acc 0xFE) [] ∧
    decode [0x82, 0x20] = .ok (.rrf 0x20) [] := by decide

theorem test_decode_system :
    decode [0x18] = .ok .clc [] ∧ decode [0x38] = .ok .sec [] ∧ decode [0x58] = .ok .cli [] ∧ decode [0x78] = .ok .sei [] ∧
    decode [0xD8] = .ok .cld [] ∧ decode [0xF8] = .ok .sed [] ∧ decode [0xB8] = .ok .clv [] ∧ decode [0x12] = .ok .clt [] ∧
    decode [0x32] = .ok .setT [] ∧ decode [0xEA] = .ok .nop [] ∧ decode [0xC2] = .ok .wit [] ∧ decode [0x42] = .ok .stp [] ∧
    decode [0x9E] = .ok (.undefined 0x9E) [] ∧ decode [0x62] = .ok (.refusedOpcode 0x62) [] ∧
    decode [0xE2] = .ok (.refusedOpcode 0xE2) [] := by decide

/-- A sequence that ends inside an instruction is rejected by name. -/
theorem test_decode_rejects :
    decode [] = .rejected .noOpcode ∧ decode [0x69] = .rejected (.missingOperand 0x69) ∧
    decode [0x6D, 0x34] = .rejected (.missingOperand 0x6D) := by decide

/-- The table's word for `LDA $hhll` with zero operands, and the host's placement of a word at the pc. -/
theorem test_table_word : decodeTableWord 8 0xAD = some (.lda (.mem (.abs 0x0000))) ∧
    decodeTableWord 16 0x0569 = some (.adc (.imm 0x05)) ∧
    (match step (State.reset.withFetchWord 16 0x0569) with
      | .next t => some (t.a, t.pc)
      | .fault _ | .refused _ => none) = some (0x05, 0x0002) := by decide

/-! ## Single steps -/

/-- Flags N V T D I Z C, as the vectors list them. -/
def fl (n v t d i z c : Nat) : Flags := ⟨n == 1, v == 1, t == 1, d == 1, i == 1, z == 1, c == 1⟩

/-- The start state of spec/95_test_vectors.md section 1. -/
def tc : State := { State.reset with pc := 0x1000, p := fl 0 0 0 0 0 0 0, trace := [] }

/-- TC-doc without the page wrap of JMP indirect. -/
def noPageWrap : Config := { Config.tcDoc with jmpIndirectPageWrap := false }

/-- Bytes in memory from an address on. -/
def put (s : State) (a : Addr) : List Byte → State
  | [] => s
  | b :: bs => put { s with mem := Memory.write s.mem a.toNat b } (a + 1) bs

/-- Single bytes in memory. -/
def putAll (s : State) : List (Addr × Byte) → State
  | [] => s
  | (a, b) :: rest => putAll (put s a [b]) rest

/-- What a test looks at: A, X, Y, S, PC, the flags and the run state. -/
structure Regs where
  a : Byte
  x : Byte
  y : Byte
  sp : Byte
  pc : Addr
  p : Flags
  run : RunState
  deriving DecidableEq, Repr

def regs (a x y sp : Byte) (pc : Addr) (p : Flags) (run : RunState) : Regs := ⟨a, x, y, sp, pc, p, run⟩

/-- The registers after one step from `s`, with the bytes of an instruction at PC and other bytes in memory, and the step's accesses. -/
def shown (s : State) (bytes : List Byte) (mem : List (Addr × Byte)) : Option (Regs × List BusAccess) :=
  match step (put (putAll s mem) s.pc bytes) with
  | .next t => some (⟨t.a, t.x, t.y, t.sp, t.pc, t.p, t.run⟩, t.trace)
  | .fault _ | .refused _ => none

/-- spec/95_test_vectors.md TV2. -/
theorem test_adc_decimal_carry : shown { tc with a := 0x99#8, p := fl 0 0 0 1 0 0 0 } [0x69, 0x01] [] =
    some (regs 0x00 0x00 0x00 0xFF 0x1002 (fl 1 0 0 1 0 0 1) .running, [.read 0x1000 0x69, .read 0x1001 0x01]) := by decide

/-- spec/95_test_vectors.md TV22. -/
theorem test_adc_on_memory_with_t : shown { tc with x := 0x30#8, a := 0x77#8, p := fl 0 0 1 0 0 0 0 } [0x69, 0x03] [(0x0030, 0x05)] =
    some (regs 0x77 0x30 0x00 0xFF 0x1002 (fl 0 0 1 0 0 0 0) .running,
      [.read 0x1000 0x69, .read 0x1001 0x03, .read 0x0030 0x05, .write 0x0030 0x08]) := by decide

/-- spec/95_test_vectors.md TV8. -/
theorem test_sbc_decimal_borrow : shown { tc with a := 0x00#8, p := fl 0 0 0 1 0 0 1 } [0xE9, 0x01] [] =
    some (regs 0x99 0x00 0x00 0xFF 0x1002 (fl 1 0 0 1 0 0 0) .running, [.read 0x1000 0xE9, .read 0x1001 0x01]) := by decide

/-- spec/95_test_vectors.md TV9. -/
theorem test_sbc_overflow : shown { tc with a := 0x80#8, p := fl 0 0 0 0 0 0 1 } [0xE9, 0x01] [] =
    some (regs 0x7F 0x00 0x00 0xFF 0x1002 (fl 0 1 0 0 0 0 1) .running, [.read 0x1000 0xE9, .read 0x1001 0x01]) := by decide

/-- spec/95_test_vectors.md TV13. -/
theorem test_cmp_keeps_v : shown { tc with a := 0x40#8, p := fl 0 1 0 0 0 0 0 } [0xC9, 0x40] [] =
    some (regs 0x40 0x00 0x00 0xFF 0x1002 (fl 0 1 0 0 0 1 1) .running, [.read 0x1000 0xC9, .read 0x1001 0x40]) := by decide

/-- spec/95_test_vectors.md TV23. -/
theorem test_cmp_on_memory_with_t : shown { tc with x := 0x30#8, a := 0x00#8, p := fl 0 0 1 0 0 0 0 } [0xC9, 0x05] [(0x0030, 0x05)] =
    some (regs 0x00 0x30 0x00 0xFF 0x1002 (fl 0 0 1 0 0 1 1) .running,
      [.read 0x1000 0xC9, .read 0x1001 0x05, .read 0x0030 0x05]) := by decide

/-- spec/95_test_vectors.md TV15. -/
theorem test_cpx_borrow : shown { tc with x := 0x05#8 } [0xE4, 0x10] [(0x0010, 0x06)] =
    some (regs 0x00 0x05 0x00 0xFF 0x1002 (fl 1 0 0 0 0 0 0) .running,
      [.read 0x1000 0xE4, .read 0x1001 0x10, .read 0x0010 0x06]) := by decide

/-- spec/95_test_vectors.md TV16. -/
theorem test_cpy_equal : shown { tc with y := 0x00#8 } [0xC0, 0x00] [] =
    some (regs 0x00 0x00 0x00 0xFF 0x1002 (fl 0 0 0 0 0 1 1) .running, [.read 0x1000 0xC0, .read 0x1001 0x00]) := by decide

/-- spec/95_test_vectors.md TV17. -/
theorem test_inc_accumulator_wraps : shown { tc with a := 0xFF#8, p := fl 0 0 0 0 0 0 1 } [0x3A] [] =
    some (regs 0x00 0x00 0x00 0xFF 0x1001 (fl 0 0 0 0 0 1 1) .running, [.read 0x1000 0x3A]) := by decide

/-- spec/95_test_vectors.md TV19. -/
theorem test_inc_absolute_index_wraps : shown { tc with x := 0x02#8 } [0xFE, 0xFF, 0xFF] [(0x0001, 0x7F)] =
    some (regs 0x00 0x02 0x00 0xFF 0x1003 (fl 1 0 0 0 0 0 0) .running,
      [.read 0x1000 0xFE, .read 0x1001 0xFF, .read 0x1002 0xFF, .read 0x0001 0x7F, .write 0x0001 0x80]) := by decide

/-- spec/95_test_vectors.md TV18. -/
theorem test_dec_wraps : shown tc [0xC6, 0x10] [(0x0010, 0x00)] =
    some (regs 0x00 0x00 0x00 0xFF 0x1002 (fl 1 0 0 0 0 0 0) .running,
      [.read 0x1000 0xC6, .read 0x1001 0x10, .read 0x0010 0x00, .write 0x0010 0xFF]) := by decide

/-- spec/95_test_vectors.md TV20. -/
theorem test_dex_wraps : shown { tc with x := 0x00#8 } [0xCA] [] =
    some (regs 0x00 0xFF 0x00 0xFF 0x1001 (fl 1 0 0 0 0 0 0) .running, [.read 0x1000 0xCA]) := by decide

/-- spec/95_test_vectors.md TV21. -/
theorem test_iny_sign : shown { tc with y := 0x7F#8 } [0xC8] [] =
    some (regs 0x00 0x00 0x80 0xFF 0x1001 (fl 1 0 0 0 0 0 0) .running, [.read 0x1000 0xC8]) := by decide

/-- spec/95_test_vectors.md TV29. -/
theorem test_and_pointer_wraps_in_page_zero : shown { tc with x := 0x00#8, a := 0xFF#8 } [0x21, 0xFF] [(0x00FF, 0x00), (0x0000, 0x20), (0x2000, 0x81)] =
    some (regs 0x81 0x00 0x00 0xFF 0x1002 (fl 1 0 0 0 0 0 0) .running,
      [.read 0x1000 0x21, .read 0x1001 0xFF, .read 0x00FF 0x00, .read 0x0000 0x20, .read 0x2000 0x81]) := by decide

/-- spec/95_test_vectors.md TV26. -/
theorem test_ora_sign : shown { tc with a := 0x0F#8 } [0x09, 0x80] [] =
    some (regs 0x8F 0x00 0x00 0xFF 0x1002 (fl 1 0 0 0 0 0 0) .running, [.read 0x1000 0x09, .read 0x1001 0x80]) := by decide

/-- spec/95_test_vectors.md TV28. -/
theorem test_eor_indexed_indirect : shown { tc with x := 0x04#8, a := 0xF0#8 } [0x41, 0x10] [(0x0014, 0x00), (0x0015, 0x03), (0x0300, 0x0F)] =
    some (regs 0xFF 0x04 0x00 0xFF 0x1002 (fl 1 0 0 0 0 0 0) .running,
      [.read 0x1000 0x41, .read 0x1001 0x10, .read 0x0014 0x00, .read 0x0015 0x03, .read 0x0300 0x0F]) := by decide

/-- spec/95_test_vectors.md TV30. -/
theorem test_bit_zero_with_flags_of_memory : shown { tc with a := 0x01#8 } [0x24, 0x40] [(0x0040, 0xC0)] =
    some (regs 0x01 0x00 0x00 0xFF 0x1002 (fl 1 1 0 0 0 1 0) .running,
      [.read 0x1000 0x24, .read 0x1001 0x40, .read 0x0040 0xC0]) := by decide

/-- spec/95_test_vectors.md TV31. -/
theorem test_bit_nonzero : shown { tc with a := 0xFF#8 } [0x24, 0x40] [(0x0040, 0x01)] =
    some (regs 0xFF 0x00 0x00 0xFF 0x1002 (fl 0 0 0 0 0 0 0) .running,
      [.read 0x1000 0x24, .read 0x1001 0x40, .read 0x0040 0x01]) := by decide

/-- spec/95_test_vectors.md TV32. -/
theorem test_com_to_zero : shown tc [0x44, 0x20] [(0x0020, 0xFF)] =
    some (regs 0x00 0x00 0x00 0xFF 0x1002 (fl 0 0 0 0 0 1 0) .running,
      [.read 0x1000 0x44, .read 0x1001 0x20, .read 0x0020 0xFF, .write 0x0020 0x00]) := by decide

/-- spec/95_test_vectors.md TV33. -/
theorem test_tst_sign : shown tc [0x64, 0x30] [(0x0030, 0x80)] =
    some (regs 0x00 0x00 0x00 0xFF 0x1002 (fl 1 0 0 0 0 0 0) .running,
      [.read 0x1000 0x64, .read 0x1001 0x30, .read 0x0030 0x80]) := by decide

/-- spec/95_test_vectors.md TV34. -/
theorem test_asl_accumulator_carry : shown { tc with a := 0x80#8 } [0x0A] [] =
    some (regs 0x00 0x00 0x00 0xFF 0x1001 (fl 0 0 0 0 0 1 1) .running, [.read 0x1000 0x0A]) := by decide

/-- spec/95_test_vectors.md TV38. -/
theorem test_asl_absolute_one_read_one_write : shown tc [0x0E, 0x00, 0x02] [(0x0200, 0x40)] =
    some (regs 0x00 0x00 0x00 0xFF 0x1003 (fl 1 0 0 0 0 0 0) .running,
      [.read 0x1000 0x0E, .read 0x1001 0x00, .read 0x1002 0x02, .read 0x0200 0x40, .write 0x0200 0x80]) := by decide

/-- spec/95_test_vectors.md TV35. -/
theorem test_lsr_accumulator_carry : shown { tc with a := 0x01#8 } [0x4A] [] =
    some (regs 0x00 0x00 0x00 0xFF 0x1001 (fl 0 0 0 0 0 1 1) .running, [.read 0x1000 0x4A]) := by decide

/-- spec/95_test_vectors.md TV36. -/
theorem test_rol_accumulator : shown { tc with a := 0x80#8 } [0x2A] [] =
    some (regs 0x00 0x00 0x00 0xFF 0x1001 (fl 0 0 0 0 0 1 1) .running, [.read 0x1000 0x2A]) := by decide

/-- spec/95_test_vectors.md TV37. -/
theorem test_ror_memory_carry_in : shown { tc with p := fl 0 0 0 0 0 0 1 } [0x66, 0x10] [(0x0010, 0x01)] =
    some (regs 0x00 0x00 0x00 0xFF 0x1002 (fl 1 0 0 0 0 0 1) .running,
      [.read 0x1000 0x66, .read 0x1001 0x10, .read 0x0010 0x01, .write 0x0010 0x80]) := by decide

/-- spec/95_test_vectors.md TV40. -/
theorem test_lda_absolute_index_wraps : shown { tc with x := 0x20#8 } [0xBD, 0xF0, 0xFF] [(0x0010, 0x80)] =
    some (regs 0x80 0x20 0x00 0xFF 0x1003 (fl 1 0 0 0 0 0 0) .running,
      [.read 0x1000 0xBD, .read 0x1001 0xF0, .read 0x1002 0xFF, .read 0x0010 0x80]) := by decide

/-- spec/95_test_vectors.md TV41. -/
theorem test_lda_on_memory_with_t : shown { tc with x := 0x10#8, a := 0x00#8, p := fl 0 0 1 0 0 0 0 } [0xA9, 0x42] [(0x0010, 0x99)] =
    some (regs 0x00 0x10 0x00 0xFF 0x1002 (fl 0 0 1 0 0 0 0) .running,
      [.read 0x1000 0xA9, .read 0x1001 0x42, .read 0x0010 0x99, .write 0x0010 0x42]) := by decide

/-- spec/95_test_vectors.md TV42. -/
theorem test_ldx_zero_page_y_wraps : shown { tc with y := 0xF5#8 } [0xB6, 0x10] [(0x0005, 0x33)] =
    some (regs 0x00 0x33 0xF5 0xFF 0x1002 (fl 0 0 0 0 0 0 0) .running,
      [.read 0x1000 0xB6, .read 0x1001 0x10, .read 0x0005 0x33]) := by decide

/-- spec/95_test_vectors.md TV43. -/
theorem test_ldm_no_read : shown tc [0x3C, 0x5A, 0x20] [] =
    some (regs 0x00 0x00 0x00 0xFF 0x1003 (fl 0 0 0 0 0 0 0) .running,
      [.read 0x1000 0x3C, .read 0x1001 0x5A, .read 0x1002 0x20, .write 0x0020 0x5A]) := by decide

/-- spec/95_test_vectors.md TV44. -/
theorem test_sta_indirect_indexed : shown { tc with y := 0x20#8, a := 0xAB#8 } [0x91, 0x20] [(0x0020, 0xF0), (0x0021, 0x12)] =
    some (regs 0xAB 0x00 0x20 0xFF 0x1002 (fl 0 0 0 0 0 0 0) .running,
      [.read 0x1000 0x91, .read 0x1001 0x20, .read 0x0020 0xF0, .read 0x0021 0x12, .write 0x1310 0xAB]) := by decide

/-- spec/95_test_vectors.md TV45. -/
theorem test_stx_zero_page_y_wraps : shown { tc with y := 0x02#8, x := 0x77#8 } [0x96, 0xFF] [] =
    some (regs 0x00 0x77 0x02 0xFF 0x1002 (fl 0 0 0 0 0 0 0) .running,
      [.read 0x1000 0x96, .read 0x1001 0xFF, .write 0x0001 0x77]) := by decide

/-- spec/95_test_vectors.md TV46. -/
theorem test_txs_no_flag : shown { tc with x := 0x80#8 } [0x9A] [] =
    some (regs 0x00 0x80 0x00 0x80 0x1001 (fl 0 0 0 0 0 0 0) .running, [.read 0x1000 0x9A]) := by decide

/-- spec/95_test_vectors.md TV47. -/
theorem test_tsx_zero : shown { tc with sp := 0x00#8 } [0xBA] [] =
    some (regs 0x00 0x00 0x00 0x00 0x1001 (fl 0 0 0 0 0 1 0) .running, [.read 0x1000 0xBA]) := by decide

/-- spec/95_test_vectors.md TV48. -/
theorem test_pha_stack_wraps : shown { tc with sp := 0x00#8, a := 0x42#8 } [0x48] [] =
    some (regs 0x42 0x00 0x00 0xFF 0x1001 (fl 0 0 0 0 0 0 0) .running, [.read 0x1000 0x48, .write 0x0100 0x42]) := by decide

/-- spec/95_test_vectors.md TV49. -/
theorem test_pla_stack_wraps : shown { tc with sp := 0xFF#8 } [0x68] [(0x0100, 0x80)] =
    some (regs 0x80 0x00 0x00 0x00 0x1001 (fl 1 0 0 0 0 0 0) .running, [.read 0x1000 0x68, .read 0x0100 0x80]) := by decide

/-- spec/95_test_vectors.md TV50. -/
theorem test_php_all_flags_and_bit_four : shown { tc with p := fl 1 1 1 1 1 1 1 } [0x08] [] =
    some (regs 0x00 0x00 0x00 0xFE 0x1001 (fl 1 1 1 1 1 1 1) .running, [.read 0x1000 0x08, .write 0x01FF 0xFF]) := by decide

/-- spec/95_test_vectors.md TV51. -/
theorem test_plp_discards_bit_four : shown { tc with sp := 0xFE#8 } [0x28] [(0x01FF, 0x10)] =
    some (regs 0x00 0x00 0x00 0xFF 0x1001 (fl 0 0 0 0 0 0 0) .running, [.read 0x1000 0x28, .read 0x01FF 0x10]) := by decide

/-- spec/95_test_vectors.md TV52. -/
theorem test_bne_taken : shown tc [0xD0, 0x10] [] =
    some (regs 0x00 0x00 0x00 0xFF 0x1012 (fl 0 0 0 0 0 0 0) .running, [.read 0x1000 0xD0, .read 0x1001 0x10]) := by decide

/-- spec/95_test_vectors.md TV53. -/
theorem test_beq_not_taken : shown tc [0xF0, 0x10] [] =
    some (regs 0x00 0x00 0x00 0xFF 0x1002 (fl 0 0 0 0 0 0 0) .running, [.read 0x1000 0xF0, .read 0x1001 0x10]) := by decide

/-- spec/95_test_vectors.md TV54. -/
theorem test_bra_backwards_limit : shown tc [0x80, 0x80] [] =
    some (regs 0x00 0x00 0x00 0xFF 0x0F82 (fl 0 0 0 0 0 0 0) .running, [.read 0x1000 0x80, .read 0x1001 0x80]) := by decide

/-- spec/95_test_vectors.md TV55. -/
theorem test_bcc_wraps : shown { tc with pc := 0xFFF0#16 } [0x90, 0x7F] [] =
    some (regs 0x00 0x00 0x00 0xFF 0x0071 (fl 0 0 0 0 0 0 0) .running, [.read 0xFFF0 0x90, .read 0xFFF1 0x7F]) := by decide

/-- spec/95_test_vectors.md TV56. -/
theorem test_bmi_to_itself : shown { tc with p := fl 1 0 0 0 0 0 0 } [0x30, 0xFE] [] =
    some (regs 0x00 0x00 0x00 0xFF 0x1000 (fl 1 0 0 0 0 0 0) .running, [.read 0x1000 0x30, .read 0x1001 0xFE]) := by decide

/-- spec/95_test_vectors.md TV58. -/
theorem test_jmp_indirect_page_wrap : shown { tc with pc := 0x2000#16 } [0x6C, 0xFF, 0x12] [(0x12FF, 0x34), (0x1200, 0x56), (0x1300, 0x99)] =
    some (regs 0x00 0x00 0x00 0xFF 0x5634 (fl 0 0 0 0 0 0 0) .running,
      [.read 0x2000 0x6C, .read 0x2001 0xFF, .read 0x2002 0x12, .read 0x12FF 0x34, .read 0x1200 0x56]) := by decide

/-- spec/95_test_vectors.md TV59. -/
theorem test_jmp_indirect_no_page_wrap : shown { tc with pc := 0x2000#16, cfg := noPageWrap } [0x6C, 0xFF, 0x12] [(0x12FF, 0x34), (0x1200, 0x56), (0x1300, 0x99)] =
    some (regs 0x00 0x00 0x00 0xFF 0x9934 (fl 0 0 0 0 0 0 0) .running,
      [.read 0x2000 0x6C, .read 0x2001 0xFF, .read 0x2002 0x12, .read 0x12FF 0x34, .read 0x1300 0x99]) := by decide

/-- spec/95_test_vectors.md TV62. -/
theorem test_jsr_special_page : shown tc [0x22, 0x80] [] =
    some (regs 0x00 0x00 0x00 0xFD 0xFF80 (fl 0 0 0 0 0 0 0) .running,
      [.read 0x1000 0x22, .read 0x1001 0x80, .write 0x01FF 0x10, .write 0x01FE 0x01]) := by decide

/-- spec/95_test_vectors.md TV63. -/
theorem test_jsr_zero_page_indirect : shown tc [0x02, 0x40] [(0x0040, 0x00), (0x0041, 0x30)] =
    some (regs 0x00 0x00 0x00 0xFD 0x3000 (fl 0 0 0 0 0 0 0) .running,
      [.read 0x1000 0x02, .read 0x1001 0x40, .read 0x0040 0x00, .read 0x0041 0x30, .write 0x01FF 0x10, .write 0x01FE 0x01]) := by decide

/-- spec/95_test_vectors.md TV64. -/
theorem test_rts_wraps : shown { tc with sp := 0xFD#8 } [0x60] [(0x01FE, 0xFF), (0x01FF, 0xFF)] =
    some (regs 0x00 0x00 0x00 0xFF 0x0000 (fl 0 0 0 0 0 0 0) .running,
      [.read 0x1000 0x60, .read 0x01FE 0xFF, .read 0x01FF 0xFF]) := by decide

/-- spec/95_test_vectors.md TV65. -/
theorem test_rti_restores_all_flags : shown { tc with sp := 0xFC#8 } [0x40] [(0x01FD, 0xFF), (0x01FE, 0x34), (0x01FF, 0x12)] =
    some (regs 0x00 0x00 0x00 0xFF 0x1234 (fl 1 1 1 1 1 1 1) .running,
      [.read 0x1000 0x40, .read 0x01FD 0xFF, .read 0x01FE 0x34, .read 0x01FF 0x12]) := by decide

/-- spec/95_test_vectors.md TV66. -/
theorem test_brk_source_entry_value : shown { tc with sp := 0xFF#8, p := fl 0 0 0 0 0 0 1 } [0x00, 0xEA] [(0xFFDE, 0x00), (0xFFDF, 0x80)] =
    some (regs 0x00 0x00 0x00 0xFC 0x8000 (fl 0 0 0 0 0 0 1) .running,
      [.read 0x1000 0x00, .read 0x1001 0xEA, .write 0x01FF 0x10, .write 0x01FE 0x02, .write 0x01FD 0x11, .read 0xFFDE 0x00, .read 0xFFDF 0x80]) := by decide

/-- spec/95_test_vectors.md TV67. -/
theorem test_brk_family_entry_value : shown { tc with sp := 0xFF#8, p := fl 0 0 0 0 0 0 1, cfg := Config.tcFam } [0x00, 0xEA] [(0xFFDE, 0x00), (0xFFDF, 0x80)] =
    some (regs 0x00 0x00 0x00 0xFC 0x8000 (fl 0 0 0 0 1 0 1) .running,
      [.read 0x1000 0x00, .read 0x1001 0xEA, .write 0x01FF 0x10, .write 0x01FE 0x02, .write 0x01FD 0x11, .read 0xFFDE 0x00, .read 0xFFDF 0x80]) := by decide

/-- spec/95_test_vectors.md TV68. -/
theorem test_seb_memory : shown tc [0x6F, 0x20] [(0x0020, 0x00)] =
    some (regs 0x00 0x00 0x00 0xFF 0x1002 (fl 0 0 0 0 0 0 0) .running,
      [.read 0x1000 0x6F, .read 0x1001 0x20, .read 0x0020 0x00, .write 0x0020 0x08]) := by decide

/-- spec/95_test_vectors.md TV70. -/
theorem test_seb_accumulator_keeps_n : shown { tc with a := 0x00#8 } [0xEB] [] =
    some (regs 0x80 0x00 0x00 0xFF 0x1001 (fl 0 0 0 0 0 0 0) .running, [.read 0x1000 0xEB]) := by decide

/-- spec/95_test_vectors.md TV69. -/
theorem test_clb_memory : shown tc [0x7F, 0x20] [(0x0020, 0xFF)] =
    some (regs 0x00 0x00 0x00 0xFF 0x1002 (fl 0 0 0 0 0 0 0) .running,
      [.read 0x1000 0x7F, .read 0x1001 0x20, .read 0x0020 0xFF, .write 0x0020 0xF7]) := by decide

/-- spec/95_test_vectors.md TV71. -/
theorem test_clb_accumulator_keeps_z : shown { tc with a := 0x01#8 } [0x1B] [] =
    some (regs 0x00 0x00 0x00 0xFF 0x1001 (fl 0 0 0 0 0 0 0) .running, [.read 0x1000 0x1B]) := by decide

/-- spec/95_test_vectors.md TV72. -/
theorem test_bbs_taken : shown tc [0x47, 0x10, 0x05] [(0x0010, 0x04)] =
    some (regs 0x00 0x00 0x00 0xFF 0x1008 (fl 0 0 0 0 0 0 0) .running,
      [.read 0x1000 0x47, .read 0x1001 0x10, .read 0x1002 0x05, .read 0x0010 0x04]) := by decide

/-- spec/95_test_vectors.md TV73. -/
theorem test_bbs_not_taken : shown tc [0x47, 0x10, 0x05] [(0x0010, 0xFB)] =
    some (regs 0x00 0x00 0x00 0xFF 0x1003 (fl 0 0 0 0 0 0 0) .running,
      [.read 0x1000 0x47, .read 0x1001 0x10, .read 0x1002 0x05, .read 0x0010 0xFB]) := by decide

/-- spec/95_test_vectors.md TV74. -/
theorem test_bbc_accumulator_taken : shown { tc with a := 0x7F#8 } [0xF3, 0xFE] [] =
    some (regs 0x7F 0x00 0x00 0xFF 0x1000 (fl 0 0 0 0 0 0 0) .running, [.read 0x1000 0xF3, .read 0x1001 0xFE]) := by decide

/-- spec/95_test_vectors.md TV75. -/
theorem test_bbc_accumulator_not_taken : shown { tc with a := 0x01#8 } [0x13, 0x04] [] =
    some (regs 0x01 0x00 0x00 0xFF 0x1002 (fl 0 0 0 0 0 0 0) .running, [.read 0x1000 0x13, .read 0x1001 0x04]) := by decide

/-- spec/95_test_vectors.md TV76. -/
theorem test_rrf : shown tc [0x82, 0x20] [(0x0020, 0x3C)] =
    some (regs 0x00 0x00 0x00 0xFF 0x1002 (fl 0 0 0 0 0 0 0) .running,
      [.read 0x1000 0x82, .read 0x1001 0x20, .read 0x0020 0x3C, .write 0x0020 0xC3]) := by decide

/-- spec/95_test_vectors.md TV78. -/
theorem test_sec : shown tc [0x38] [] =
    some (regs 0x00 0x00 0x00 0xFF 0x1001 (fl 0 0 0 0 0 0 1) .running, [.read 0x1000 0x38]) := by decide

/-- spec/95_test_vectors.md TV79. -/
theorem test_clc : shown { tc with p := fl 0 0 0 0 0 0 1 } [0x18] [] =
    some (regs 0x00 0x00 0x00 0xFF 0x1001 (fl 0 0 0 0 0 0 0) .running, [.read 0x1000 0x18]) := by decide

/-- spec/95_test_vectors.md TV80. -/
theorem test_sei : shown tc [0x78] [] =
    some (regs 0x00 0x00 0x00 0xFF 0x1001 (fl 0 0 0 0 1 0 0) .running, [.read 0x1000 0x78]) := by decide

/-- spec/95_test_vectors.md TV81. -/
theorem test_cli : shown { tc with p := fl 0 0 0 0 1 0 0 } [0x58] [] =
    some (regs 0x00 0x00 0x00 0xFF 0x1001 (fl 0 0 0 0 0 0 0) .running, [.read 0x1000 0x58]) := by decide

/-- spec/95_test_vectors.md TV82. -/
theorem test_sed : shown tc [0xF8] [] =
    some (regs 0x00 0x00 0x00 0xFF 0x1001 (fl 0 0 0 1 0 0 0) .running, [.read 0x1000 0xF8]) := by decide

/-- spec/95_test_vectors.md TV83. -/
theorem test_cld : shown { tc with p := fl 0 0 0 1 0 0 0 } [0xD8] [] =
    some (regs 0x00 0x00 0x00 0xFF 0x1001 (fl 0 0 0 0 0 0 0) .running, [.read 0x1000 0xD8]) := by decide

/-- spec/95_test_vectors.md TV84. -/
theorem test_clv : shown { tc with p := fl 0 1 0 0 0 0 0 } [0xB8] [] =
    some (regs 0x00 0x00 0x00 0xFF 0x1001 (fl 0 0 0 0 0 0 0) .running, [.read 0x1000 0xB8]) := by decide

/-- spec/95_test_vectors.md TV85. -/
theorem test_set : shown tc [0x32] [] =
    some (regs 0x00 0x00 0x00 0xFF 0x1001 (fl 0 0 1 0 0 0 0) .running, [.read 0x1000 0x32]) := by decide

/-- spec/95_test_vectors.md TV86. -/
theorem test_clt : shown { tc with p := fl 0 0 1 0 0 0 0 } [0x12] [] =
    some (regs 0x00 0x00 0x00 0xFF 0x1001 (fl 0 0 0 0 0 0 0) .running, [.read 0x1000 0x12]) := by decide

/-- spec/95_test_vectors.md TV87. -/
theorem test_nop : shown tc [0xEA] [] =
    some (regs 0x00 0x00 0x00 0xFF 0x1001 (fl 0 0 0 0 0 0 0) .running, [.read 0x1000 0xEA]) := by decide

/-- spec/95_test_vectors.md TV88. -/
theorem test_wit : shown tc [0xC2] [] =
    some (regs 0x00 0x00 0x00 0xFF 0x1001 (fl 0 0 0 0 0 0 0) .waiting, [.read 0x1000 0xC2]) := by decide

/-- spec/95_test_vectors.md TV89. -/
theorem test_stp : shown tc [0x42] [] =
    some (regs 0x00 0x00 0x00 0xFF 0x1001 (fl 0 0 0 0 0 0 0) .stopped, [.read 0x1000 0x42]) := by decide

/-- By hand from R161: 0xFF + 1 is 0x00 modulo 256, Z is set, C is not written. -/
theorem test_inx_wraps : shown { tc with x := 0xFF#8 } [0xE8] [] =
    some (regs 0x00 0x00 0x00 0xFF 0x1001 (fl 0 0 0 0 0 1 0) .running, [.read 0x1000 0xE8]) := by decide

/-- By hand from R164. -/
theorem test_dey_wraps : shown tc [0x88] [] =
    some (regs 0x00 0x00 0xFF 0xFF 0x1001 (fl 1 0 0 0 0 0 0) .running, [.read 0x1000 0x88]) := by decide

/-- By hand from R202 and R121: LDY indexes by X, and the zero-page sum 0x20 + 0xF5 wraps to 0x15. -/
theorem test_ldy_zero_page_x_wraps : shown { tc with x := 0xF5#8 } [0xB4, 0x20] [(0x0015, 0x81)] =
    some (regs 0x00 0xF5 0x81 0xFF 0x1002 (fl 1 0 0 0 0 0 0) .running,
      [.read 0x1000 0xB4, .read 0x1001 0x20, .read 0x0015 0x81]) := by decide

/-- By hand from R206: one write, no read of the destination, no flag. -/
theorem test_sty_absolute : shown { tc with y := 0x80#8 } [0x8C, 0x34, 0x12] [] =
    some (regs 0x00 0x00 0x80 0xFF 0x1003 (fl 0 0 0 0 0 0 0) .running,
      [.read 0x1000 0x8C, .read 0x1001 0x34, .read 0x1002 0x12, .write 0x1234 0x80]) := by decide

/-- By hand from R207: T plays no part. -/
theorem test_tax_ignores_t : shown { tc with a := 0x80#8, p := fl 0 0 1 0 0 0 0 } [0xAA] [] =
    some (regs 0x80 0x80 0x00 0xFF 0x1001 (fl 1 0 1 0 0 0 0) .running, [.read 0x1000 0xAA]) := by decide

/-- By hand from R208. -/
theorem test_tay_zero : shown { tc with y := 0x11#8 } [0xA8] [] =
    some (regs 0x00 0x00 0x00 0xFF 0x1001 (fl 0 0 0 0 0 1 0) .running, [.read 0x1000 0xA8]) := by decide

/-- By hand from R209: A is written whatever T is. -/
theorem test_txa_writes_a_with_t : shown { tc with x := 0x42#8, p := fl 0 0 1 0 0 0 0 } [0x8A] [] =
    some (regs 0x42 0x42 0x00 0xFF 0x1001 (fl 0 0 1 0 0 0 0) .running, [.read 0x1000 0x8A]) := by decide

/-- By hand from R210. -/
theorem test_tya_sign : shown { tc with y := 0xC0#8 } [0x98] [] =
    some (regs 0xC0 0x00 0xC0 0xFF 0x1001 (fl 1 0 0 0 0 0 0) .running, [.read 0x1000 0x98]) := by decide

/-- By hand from R230 and R229: 0x1002 + 0x7F. -/
theorem test_bpl_taken_forwards_limit : shown tc [0x10, 0x7F] [] =
    some (regs 0x00 0x00 0x00 0xFF 0x1081 (fl 0 0 0 0 0 0 0) .running, [.read 0x1000 0x10, .read 0x1001 0x7F]) := by decide

/-- By hand from R232: not taken with V set. -/
theorem test_bvc_not_taken : shown { tc with p := fl 0 1 0 0 0 0 0 } [0x50, 0x7F] [] =
    some (regs 0x00 0x00 0x00 0xFF 0x1002 (fl 0 1 0 0 0 0 0) .running, [.read 0x1000 0x50, .read 0x1001 0x7F]) := by decide

/-- By hand from R233: 0x1002 - 3. -/
theorem test_bvs_taken : shown { tc with p := fl 0 1 0 0 0 0 0 } [0x70, 0xFD] [] =
    some (regs 0x00 0x00 0x00 0xFF 0x0FFF (fl 0 1 0 0 0 0 0) .running, [.read 0x1000 0x70, .read 0x1001 0xFD]) := by decide

/-- By hand from R235. -/
theorem test_bcs_not_taken : shown tc [0xB0, 0x05] [] =
    some (regs 0x00 0x00 0x00 0xFF 0x1002 (fl 0 0 0 0 0 0 0) .running, [.read 0x1000 0xB0, .read 0x1001 0x05]) := by decide

/-- TV90 and TV91. -/
theorem test_unadmitted_bytes_are_refused :
    step (put tc 0x1000 [0x04]) = .refused (.undefinedOpcode 0x04 0x1001) ∧
    step (put tc 0x1000 [0x62]) = .refused (.refusedOpcode 0x62 0x1001) := ⟨rfl, rfl⟩

/-- By hand from R292: 0x04 configured as a three-byte form of INC zero page (two bytes of its own, one ignored). -/
theorem test_undefined_byte_with_a_meaning :
    shown { tc with cfg := { Config.tcDoc with undefinedOpcodeMeaning := [⟨0x04, 0xE6, 3⟩] } } [0x04, 0x10, 0x99] [(0x0010, 0x41)] =
      some (regs 0x00 0x00 0x00 0xFF 0x1003 (fl 0 0 0 0 0 0 0) .running,
        [.read 0x1000 0x04, .read 0x1001 0x10, .read 0x1002 0x99, .read 0x0010 0x41, .write 0x0010 0x42]) := by decide

/-- IV1: lines 2, 5 and 9 asserted, line 2 is served. -/
theorem test_entry_of_the_lowest_line :
    shown { tc with lines := 0x224, p := fl 0 0 0 0 0 0 1 } [0xEA] [(0xFFF9, 0x22)] =
      some (regs 0x00 0x00 0x00 0xFC 0x2200 (fl 0 0 0 0 0 0 1) .running,
        [.write 0x01FF 0x10, .write 0x01FE 0x00, .write 0x01FD 0x01, .read 0xFFF8 0x00, .read 0xFFF9 0x22]) := by decide

/-- IV5: a masked line is not served. -/
theorem test_masked_line : shown { tc with lines := 0x008, p := fl 0 0 0 0 1 0 0 } [0xEA] [] =
    some (regs 0x00 0x00 0x00 0xFF 0x1001 (fl 0 0 0 0 1 0 0) .running, [.read 0x1000 0xEA]) := by decide

/-- IV10, its last step: the non-maskable line wakes a waiting core whatever I is. -/
theorem test_nmi_wakes :
    shown { tc with pc := 0x1001, run := .waiting, lines := 0x001, nmiLevel := true, nmiPending := true, p := fl 0 0 0 0 1 0 0 } []
        [(0xFFDD, 0x40)] =
      some (regs 0x00 0x00 0x00 0xFC 0x4000 (fl 0 0 0 0 0 0 0) .running,
        [.write 0x01FF 0x10, .write 0x01FE 0x01, .write 0x01FD 0x04, .read 0xFFDC 0x00, .read 0xFFDD 0x40]) := by decide

/-- IV18: the third push wraps within the stack page. -/
theorem test_entry_stack_wraps : shown { tc with lines := 0x001, sp := 0x01 } [0xEA] [(0xFFFD, 0x20)] =
    some (regs 0x00 0x00 0x00 0xFE 0x2000 (fl 0 0 0 0 0 0 0) .running,
      [.write 0x0101 0x10, .write 0x0100 0x00, .write 0x01FF 0x00, .read 0xFFFC 0x00, .read 0xFFFD 0x20]) := by decide

/-- IV12: a reset keeps the line levels. -/
theorem test_reset_keeps_the_lines :
    let s := putAll { tc with a := 0x55, x := 0x66, y := 0x77, sp := 0x12, p := fl 1 1 1 1 0 1 1, lines := 0x010, run := .waiting }
      [(0xFFFF, 0x10)]
    let t := s.hostReset
    regs t.a t.x t.y t.sp t.pc t.p t.run = regs 0x00 0x00 0x00 0xFF 0x1000 (fl 0 0 0 0 1 0 0) .running ∧ t.lines = 0x010 ∧
    t.trace = [.read 0xFFFE 0x00, .read 0xFFFF 0x10] := by decide

/-! ## Witnesses: a concrete case of the hypotheses of each obligation that has any -/

/-- The outcome is a next state. -/
def hasNext (o : Host.Outcome State Fault Refusal) : Bool :=
  match o with
  | .next _ => true
  | .fault _ | .refused _ => false

theorem exists_of_hasNext {o : Host.Outcome State Fault Refusal} (h : hasNext o = true) : ∃ t, o = .next t := by
  cases o with
  | next t => exact ⟨t, rfl⟩
  | fault r => cases h
  | refused r => cases h

/-- A state with canonical memory: the only hypothesis of AdcAndSbcResults, LogicAndLdaResults, IncAndDecResults,
ShiftAndRotateResults, ComplementAndNibbleSwapResults, SetAndClearBitResults, StoreResults, PushInstructionResults, JsrResults,
BrkResult and EntrySequenceEffect. -/
theorem witness_canonical_memory : Memory.wf (put tc 0x1000 [0xE6, 0x10]).mem = true := by decide

theorem witness_DecodeOfEncodeIsTheInstruction :
    (Instr.adc (.mem (.abx 0xFFFF))).wf = true ∧ (Instr.bbc 7 (.zp 0xFF) 0x80).wf = true ∧ (Instr.undefined 0xFC).wf = true ∧
    (Instr.refusedOpcode 0x62).wf = true := by decide

theorem witness_EncodeOfDecodeIsTheBytes : decode [0xFD, 0xFF, 0xFF, 0x00] = .ok (.sbc (.mem (.abx 0xFFFF))) [0x00] := by decide

theorem witness_LengthIsFixedByTheOpcodeByte :
    opcodeLength 0x6D - 1 ≤ [(0x34 : Byte), 0x12].length ∧ ¬(opcodeLength 0x6D - 1 ≤ [(0x34 : Byte)].length) ∧
    opcodeLength 0xEA - 1 ≤ ([] : List Byte).length := by decide

/-- Both alternatives of the poll, at the last bytes of the address space. -/
theorem witness_StepExecutesDecodedInstruction :
    let s := put { tc with pc := 0xFFFE } 0xFFFE [0xAD, 0x34, 0x12]
    let i := Instr.lda (.mem (.abs 0x1234))
    s.run = .running ∧ s.interruptTakeable = false ∧
    ({ s with lines := 0x001, skipPoll := true } : State).interruptTakeable = true ∧
    decode ((List.range i.length).map (fetchedByte s)) = .ok i [] ∧
    decode ((List.range i.length).map (fetchedByte { s with lines := 0x001, skipPoll := true })) = .ok i [] := by decide

theorem witness_StoppedAndWaitingCoresAreStuck :
    ({ tc with run := .stopped } : State).run = .stopped ∧
    ({ tc with run := .waiting, lines := 0x001, p := fl 0 0 0 0 1 0 0 } : State).interruptTakeable = false := by decide

/-- A running core with the last line asserted; a waiting one with the NMI latch set and every line masked. -/
theorem witness_StepServesTheSelectedInterrupt :
    let s : State := { tc with lines := 0x4000 }
    let u : State := { tc with run := .waiting, nmiPending := true, lines := 0x7FFF, p := fl 0 0 0 0 1 0 0 }
    Memory.wf s.mem = true ∧ s.interruptTakeable = true ∧ s.run = .running ∧ s.skipPoll = false ∧ s.lines.getLsbD 14 = true ∧
    ¬(s.cfg.hasNmi = true ∧ s.nmiPending = true) ∧
    Memory.wf u.mem = true ∧ u.interruptTakeable = true ∧ u.run = .waiting ∧ u.cfg.hasNmi = true := by decide

theorem witness_LowestAssertedLineGivesTheVector :
    let s : State := { tc with lines := 0x4000 }
    tc.lines = 0 ∧ s.lines.getLsbD 14 = true ∧ (∀ m, m < 14 → s.lines.getLsbD m = false) ∧
    s.setIrqLine 0 false = some s ∧ ({ tc with lines := 0x7FFF } : State).lines.getLsbD 0 = true := by decide

theorem witness_MaskedLinesDoNotAffectTheStep : State.reset.p.i = true := by decide

theorem witness_EveryAdmittedInstructionCompletes : (Instr.brk 0x00).admitted = true ∧ Instr.stp.admitted = true := by decide

theorem witness_OnlyUnadmittedBytesAreRefused :
    Config.wf tc.cfg = true ∧ step (put tc 0x1000 [0xFC]) = .refused (.undefinedOpcode 0xFC 0x1001) ∧
    step (put tc 0x1000 [0xE2]) = .refused (.refusedOpcode 0xE2 0x1001) := ⟨by decide, rfl, rfl⟩

theorem witness_StepKeepsTheInvariant :
    State.reset.Inv ∧ (∃ t, step State.reset = .next t) ∧ ({ tc with nmiPending := true, lines := 0x7FFF } : State).Inv ∧
    ∃ t, step { tc with nmiPending := true, lines := 0x7FFF } = .next t :=
  ⟨by unfold State.Inv; decide, exists_of_hasNext (by decide), by unfold State.Inv; decide, exists_of_hasNext (by decide)⟩

theorem witness_HostMovesKeepTheInvariant :
    State.reset.Inv ∧ (State.reset.hostMove .reset).isSome = true ∧ (State.reset.hostMove (.setIrqLine 14 true)).isSome = true ∧
    (State.reset.hostMove (.setNmiLine true)).isSome = true ∧ (State.reset.hostMove (.externalWrite 0xFFFF 0x01)).isSome = true := by
  unfold State.Inv
  decide

/-- A step that leaves the latch, and one that clears it. -/
theorem witness_StepsLeaveTheHostsStateAlone :
    hasNext (step (put tc 0x1000 [0xEA])) = true ∧ hasNext (step { tc with nmiPending := true }) = true := by decide

/-- An address of plain RAM and one that is not an oracle location, in a map that has one. -/
theorem witness_Answers :
    let s : State := { tc with cfg := { Config.tcDoc with regions := [⟨0x0020, 0x0020, .oracle⟩, ⟨0xE000, 0xFFFF, .rom⟩] } }
    s.kindAt 0x001F ≠ .oracle ∧ s.kindAt 0x0020 = .oracle ∧ s.kindAt 0x0021 ≠ .oracle ∧ s.kindAt 0xE000 ≠ .oracle := by decide

/-- The hypothesis, then line 15 for the first clause and lines 14 and 0 for the second. -/
theorem witness_SetIrqLineSetsItsLineAlone :
    tc.cfg.numIrqLines ≤ 15 ∧ tc.cfg.numIrqLines ≤ 15 ∧ 14 < tc.cfg.numIrqLines ∧ 0 < tc.cfg.numIrqLines ∧
    tc.setIrqLine 15 true = none ∧ tc.setIrqLine 14 true = some { tc with lines := 0x4000 } := by decide

theorem witness_OnlyARisingEdgeRequestsTheNmi :
    tc.cfg.hasNmi = true ∧ ({ Config.tcDoc with hasNmi := false } : Config).hasNmi = false ∧
    tc.setNmiLine true = some { tc with nmiLevel := true, nmiPending := true } ∧ tc.setNmiLine false = some tc := by decide

theorem witness_DecimalArithmeticOnBcdOperands :
    isBcd 0x99 ∧ isBcd 0x00 ∧ ¬isBcd 0x9A ∧ ¬isBcd 0xA9 ∧ (subDec 0x00 0x99 false).r = 0x00 ∧ (subDec 0x00 0x99 false).c = false ∧
    (addDec 0x99 0x99 true).r = 0x99 ∧ (addDec 0x99 0x99 true).c = true := by
  unfold isBcd
  decide

/-- RRF twice, from a state with the byte in plain RAM. -/
theorem witness_NibbleSwapTwiceRestoresTheByte :
    let s := put tc 0x0020 [0x3C]
    Memory.wf s.mem = true ∧ s.kindAt (BitVec.ofNat 16 (0x20 : Byte).toNat) = .ram ∧
    ∃ t u, exec (.rrf 0x20) s = .next t ∧ exec (.rrf 0x20) t = .next u :=
  ⟨by decide, by decide, _, _, rfl, rfl⟩

theorem witness_RtiUndoesTheEntry : Memory.wf tc.mem = true ∧ EntryStackIsRam { tc with sp := 0x01 } := by
  unfold EntryStackIsRam
  decide

theorem witness_RtsReturnsAfterJsr :
    let s : State := { tc with sp := 0x00 }
    Memory.wf s.mem = true ∧ s.kindAt (s.cfg.stackPage ++ s.sp) = .ram ∧ s.kindAt (s.cfg.stackPage ++ (s.sp - 1)) = .ram ∧
    ∃ t, exec (.jsr (.abs 0x2000)) s = .next t :=
  ⟨by decide, by decide, by decide, _, rfl⟩

/-- No meaning at all, and a meaning for another byte. -/
theorem witness_UnadmittedBytesAreRefused :
    (∀ m ∈ tc.cfg.undefinedOpcodeMeaning, m.undefinedByte ≠ 0x04) ∧
    ∀ m ∈ ({ Config.tcDoc with undefinedOpcodeMeaning := [⟨0x0C, 0xEA, 1⟩] } : Config).undefinedOpcodeMeaning,
      m.undefinedByte ≠ 0x04 := by decide

/-- The shortest length a meaning may have, and a longer one. -/
theorem witness_UndefinedBytesExecuteTheirConfiguredMeaning :
    let cfg : Config := { Config.tcDoc with undefinedOpcodeMeaning := [⟨0x04, 0xEA, 1⟩, ⟨0x0C, 0x6D, 5⟩] }
    Config.wf cfg = true ∧ meaningOf cfg 0x04 = some ⟨0x04, 0xEA, 1⟩ ∧ meaningOf cfg 0x0C = some ⟨0x0C, 0x6D, 5⟩ ∧
    (decodeWith 0xEA 0 0).admitted = true ∧ (decodeWith 0x6D 0 0).admitted = true ∧ opcodeLength 0xEA ≤ 1 ∧ opcodeLength 0x6D ≤ 5 := by
  decide

theorem witness_RamReadsBackTheByteWritten : Memory.wf tc.mem = true ∧ tc.kindAt 0x0000 = .ram ∧ tc.kindAt 0xFFFF = .ram := by decide

theorem witness_MemoryIsCanonical :
    Memory.wf [(0x0000, 0x01), (0xFFFF, 0xFF)] = true ∧ Memory.wf [] = true ∧ Memory.wf [(0x0010, 0x00)] = false ∧
    Memory.wf [(0x10000, 0x01)] = false := by decide

end Sys2Proof.Tests
end

section
/-! The state family (spec/10_state.md): every step keeps the invariant and the host's inputs, what reset loads, and the status byte.
A step is taken apart by `step_cases`; what an operation keeps is `State.Keeps`. -/

open Sys2Proof Sys2Proof.Machine

namespace Sys2Proof.Machine

/-! ## The invariant under the parts of a step -/

theorem State.Keeps.linesValid_eq {s t : State} (h : s.Keeps t) : t.linesValid = s.linesValid := by
  simp only [State.linesValid, h.cfg, h.lines]

/-- What differs in the registers, the flags and canonical memory alone meets the invariant too. -/
theorem State.Keeps.inv {s t : State} (h : s.Keeps t) (hs : s.Inv) : t.Inv := by
  obtain ⟨hcfg, hmem, hlines, hnmi, hskip⟩ := hs
  refine ⟨h.cfg ▸ hcfg, h.wf hmem, h.linesValid_eq.trans hlines, ?_, ?_⟩
  · rw [h.nmiPending, h.cfg]
    exact hnmi
  · rw [h.skipPoll, h.run]
    exact hskip

/-- The run state and `skipPoll` are free in the invariant, but that only a running core skips the poll (R47, R321). -/
theorem State.Inv.set_run_skipPoll {s : State} (hs : s.Inv) (run : RunState) (skip : Bool) (h : skip = true → run = .running) :
    ({ s with run := run, skipPoll := skip } : State).Inv := by
  obtain ⟨hcfg, hmem, hlines, hnmi, -⟩ := hs
  exact ⟨hcfg, hmem, hlines, hnmi, h⟩

/-- The NMI latch may be cleared (R320). -/
theorem State.Inv.set_nmiPending {s : State} (hs : s.Inv) {pending : Bool} (h : pending = true → s.nmiPending = true) :
    ({ s with nmiPending := pending } : State).Inv := by
  obtain ⟨hcfg, hmem, hlines, hnmi, hskip⟩ := hs
  exact ⟨hcfg, hmem, hlines, hnmi ∘ h, hskip⟩

/-- No source sets the NMI latch. -/
theorem EntrySource.pending_of_latchAfter {src : EntrySource} {pending : Bool} (h : src.latchAfter pending = true) :
    pending = true := by
  cases src with
  | nmi => cases h
  | line n => exact h
  | brk => exact h

/-- Serving an interrupt sets the core running, changes the NMI latch as its source says, and skips the next poll (R111, R320, R321);
the rest is kept. -/
theorem State.serveInterrupt_keeps (s : State) :
    ∃ u, ({ s with run := .running, nmiPending := s.selectedSource.latchAfter s.nmiPending } : State).Keeps u ∧
      s.serveInterrupt = { u with skipPoll := true } :=
  State.entry_keeps { s with run := .running } s.selectedSource

theorem State.Inv.serveInterrupt {s : State} (hs : s.Inv) : s.serveInterrupt.Inv := by
  obtain ⟨u, hu, he⟩ := s.serveInterrupt_keeps
  have hrunning : ({ s with run := .running } : State).Inv := hs.set_run_skipPoll .running s.skipPoll fun _ => rfl
  have huInv : u.Inv := hu.inv (hrunning.set_nmiPending EntrySource.pending_of_latchAfter)
  rw [he]
  exact huInv.set_run_skipPoll u.run true fun _ => hu.run

/-! ## Reset -/

/-- The state in which reset reads its vector: the registers, the flags and the run state are set, the trace is empty (R44). -/
def State.beforeResetVector (s : State) : State :=
  { s with
    a := s.cfg.resetA, x := s.cfg.resetX, y := s.cfg.resetY, sp := s.cfg.resetSP, p := flagsAfterReset s.cfg
    nmiPending := false, run := .running, skipPoll := false, trace := [] }

theorem State.hostReset_eq (s : State) : s.hostReset =
    (s.beforeResetVector.read16 s.cfg.resetVector).2.setPC (s.beforeResetVector.read16 s.cfg.resetVector).1 := rfl

/-! ## The status byte -/

/-- The status byte, one bit appended at a time (R34). -/
theorem packP_eq_concat (p : Flags) (b : Bool) : packP p b =
    (((((((BitVec.ofBool p.n).concat p.v).concat p.t).concat b).concat p.d).concat p.i).concat p.z).concat p.c := rfl

theorem unpackP_packP (p : Flags) (b : Bool) : unpackP (packP p b) = p := by
  rw [packP_eq_concat]
  ext1 <;> simp [unpackP]

theorem packP_toNat (p : Flags) (b : Bool) : (packP p b).toNat =
    128 * p.n.toNat + 64 * p.v.toNat + 32 * p.t.toNat + 16 * b.toNat + 8 * p.d.toNat + 4 * p.i.toNat + 2 * p.z.toNat + p.c.toNat := by
  rw [packP_eq_concat]
  simp only [BitVec.toNat_concat, BitVec.toNat_ofBool]
  omega

end Sys2Proof.Machine

namespace Sys2Proof.Certificates

/-- Settles O15: a step serves an interrupt, or it executes an instruction, which keeps the invariant but for its last change of
the run state or of `skipPoll`; the fetch has cleared `skipPoll` and the core was running. -/
theorem stepKeepsTheInvariant : Obligations.StepKeepsTheInvariant := by
  intro s t hs hstep
  rcases step_cases hstep with ⟨-, rfl, -, -⟩ | ⟨hrun, -, -, u, hu, ht⟩
  · exact (s.clearTrace_keeps.inv hs).serveInterrupt
  · have huInv : u.Inv := hu.inv (hs.set_run_skipPoll s.run false (by simp))
    have hskip : u.skipPoll = false := hu.skipPoll
    rcases ht with rfl | rfl | rfl | rfl
    · exact huInv
    · exact huInv.set_run_skipPoll .waiting u.skipPoll (by simp [hskip])
    · exact huInv.set_run_skipPoll .stopped u.skipPoll (by simp [hskip])
    · exact huInv.set_run_skipPoll u.run true fun _ => hu.run.trans hrun

/-- Settles O18: an instruction keeps the host's inputs and the latch; an entry keeps the inputs, and clears the latch where the
selected source is the non-maskable line. -/
theorem stepsLeaveTheHostsStateAlone : Obligations.StepsLeaveTheHostsStateAlone := by
  intro s t hstep
  rcases step_cases hstep with ⟨-, rfl, -, -⟩ | ⟨-, -, -, u, hu, ht⟩
  · obtain ⟨u, hu, he⟩ := s.clearTrace.serveInterrupt_keeps
    rw [he]
    refine ⟨hu.cfg, hu.lines, hu.nmiLevel, ?_⟩
    rcases s.clearTrace.selectedSource_cases with ⟨hhas, hpending, hsrc⟩ | ⟨-, hsrc⟩ <;> rw [hsrc] at hu
    · exact .inr ⟨hhas, hpending, hu.nmiPending, rfl⟩
    · exact .inl hu.nmiPending
  · rcases ht with rfl | rfl | rfl | rfl <;> exact ⟨hu.cfg, hu.lines, hu.nmiLevel, .inl hu.nmiPending⟩

/-- Settles O19: `read16` of the reset vector, from the state with the registers already set. -/
theorem resetLoadsTheDocumentedState : Obligations.ResetLoadsTheDocumentedState := by
  intro s
  obtain ⟨lo, hi, hlo, hhi, hread⟩ := s.beforeResetVector.read16_eq s.cfg.resetVector
  refine ⟨lo, hi, hlo, hhi, ?_⟩
  rw [s.hostReset_eq, hread]
  rfl

/-- Settles O44: both halves are read off the byte bit by bit. -/
theorem statusByteLayout : Obligations.StatusByteLayout :=
  fun p b => ⟨unpackP_packP p b, packP_toNat p b⟩

/-- Settles O17: TC-doc is in range, memory lists nothing, no line is asserted, the non-maskable line
exists, and the core runs. -/
theorem resetMeetsTheInvariant : Obligations.ResetMeetsTheInvariant :=
  ⟨by decide, rfl, by decide, fun _ => rfl, fun _ => rfl⟩

/-- Settles O20: TC-doc has no oracle location, so `reset()` runs on the fixed state to a fixed state. -/
theorem resetStateIsWhatResetLeaves : Obligations.ResetStateIsWhatResetLeaves :=
  ⟨rfl, rfl, rfl, rfl, rfl⟩

end Sys2Proof.Certificates
end

section
/-! The memory family (spec/20_memory.md): a byte of plain RAM through the bus, and the canonical form of memory. -/

open Sys2Proof Sys2Proof.Machine

namespace Sys2Proof.Machine

/-- Beyond the address space a canonical memory reads as unlisted. -/
theorem Memory.read_beyond {lo a : Nat} {m : Memory} (hm : Memory.wfFrom lo m = true) (ha : 2 ^ 16 ≤ a) :
    Memory.read m a = Memory.unlisted := by
  induction m generalizing lo with
  | nil => rfl
  | cons c m ih =>
    obtain ⟨k, v⟩ := c
    obtain ⟨-, hk, -, hrest⟩ := Memory.wfFrom_cons.mp hm
    have hne : k ≠ a := by omega
    simp only [Memory.read, hne, if_false]
    exact ih hrest

/-- Canonical memories that read alike at the addresses of the machine are equal data. -/
theorem Memory.eq_of_read_addr {m m' : Memory} (hm : Memory.wf m = true) (hm' : Memory.wf m' = true)
    (h : ∀ a : Addr, Memory.read m a.toNat = Memory.read m' a.toNat) : m = m' := by
  refine Memory.eq_of_read hm hm' fun a => ?_
  rcases Nat.lt_or_ge a (2 ^ 16) with hlt | hge
  · have ha := h (BitVec.ofNat 16 a)
    rwa [BitVec.toNat_ofNat, Nat.mod_eq_of_lt hlt] at ha
  · rw [Memory.read_beyond hm hge, Memory.read_beyond hm' hge]

/-- The bus answers the byte just written to plain RAM. -/
theorem State.busValue_write8_same {s : State} {a : Addr} (v : Byte) (hw : Memory.wf s.mem = true) (hram : s.kindAt a = .ram) :
    (s.write8 a v).busValue a = v := by
  have hkind : (s.write8 a v).kindAt a ≠ .oracle := by simp [hram]
  rw [State.busValue_of_not_oracle hkind, State.write8_peek_same v hw hram]

end Sys2Proof.Machine

namespace Sys2Proof.Certificates

/-- Settles O58: the bus answers plain RAM from memory, and each of the two accesses appends itself to the trace. -/
theorem ramReadsBackTheByteWritten : Obligations.RamReadsBackTheByteWritten := by
  intro s a v hw hram
  have hback : (s.write8 a v).busValue a = v := State.busValue_write8_same v hw hram
  refine ⟨hback, fun b hb => s.write8_peek_other v hb, ?_, State.write8_wf a v hw⟩
  simp [hback]

/-- Settles O59: the addresses cover all that a canonical memory lists, so reading alike there is reading alike everywhere. -/
theorem memoryIsCanonical : Obligations.MemoryIsCanonical :=
  fun _ _ hm hm' => ⟨Memory.eq_of_read_addr hm hm', fun a _ => Memory.write_wf hm a.isLt⟩

end Sys2Proof.Certificates
end

section
/-! The encoding family (spec/30_encoding.md): the decoder and the encoder are inverse to each other. The entries of the opcode map are
gone through once, for the format and the bytes of each (`opcodeMap_spells`), and the instructions once, for an entry that has
each (`isRow_of_wf`). -/

namespace Sys2Proof

/-! ## The formats of the opcode map -/

theorem addrBytes_wordOf (b1 b2 : Byte) : addrBytes (wordOf b1 b2) = [b1, b2] := by
  have hlo : (wordOf b1 b2).extractLsb' 0 8 = b1 := BitVec.extractLsb'_append_eq_right
  have hhi : (wordOf b1 b2).extractLsb' 8 8 = b2 := BitVec.extractLsb'_append_eq_left
  rw [addrBytes, hlo, hhi]

/-- The instruction is well formed and its encoding is `bytes`, as long as its length says. -/
structure Instr.SpelledBy (i : Instr) (bytes : List Byte) : Prop where
  wf : i.wf = true
  length_eq : i.length = bytes.length
  encode_eq : encode i = bytes

/-- The entry belongs to opcode byte `op`, in a format of one, two or three bytes (R81): it ignores the operand bytes that its format
does not have. For one entry of the map the premise is seen by evaluation. -/
inductive Entry.Spells (op : Byte) : Entry → Prop
  | one {i : Instr} (h : i.SpelledBy [op] := by exact ⟨rfl, rfl, rfl⟩) : Spells op fun _ _ => i
  | two {k : Byte → Instr} (h : ∀ b1, (k b1).SpelledBy [op, b1] := by exact fun _ => ⟨rfl, rfl, rfl⟩) : Spells op fun b1 _ => k b1
  | three {k : Byte → Byte → Instr} (h : ∀ b1 b2, (k b1 b2).SpelledBy [op, b1, b2] := by exact fun _ _ => ⟨rfl, rfl, rfl⟩) :
    Spells op k

/-- The format of three bytes with a 16-bit operand (R85). -/
theorem Entry.Spells.word {op : Byte} {k : Byte → Byte → Instr}
    (h : ∀ b1 b2, (k b1 b2).SpelledBy (op :: addrBytes (wordOf b1 b2)) := by exact fun _ _ => ⟨rfl, rfl, rfl⟩) :
    Entry.Spells op k := by
  simp only [addrBytes_wordOf] at h
  exact .three h

/-- The entries of a part of the opcode map belong to the opcode bytes from `n` on. -/
def SpellsFrom : Nat → List Entry → Prop
  | _, [] => True
  | n, e :: es => Entry.Spells (BitVec.ofNat 8 n) e ∧ SpellsFrom (n + 1) es

theorem SpellsFrom.append {n m : Nat} {es fs : List Entry} (he : SpellsFrom n es) (hf : SpellsFrom m fs)
    (hm : m = n + es.length := by rfl) : SpellsFrom n (es ++ fs) := by
  induction es generalizing n with
  | nil => subst hm; exact hf
  | cons e es ih =>
    obtain ⟨hhead, htail⟩ := he
    exact ⟨hhead, ih htail (by rw [hm, List.length_cons]; omega)⟩

theorem SpellsFrom.getD {n k : Nat} {es : List Entry} (h : SpellsFrom n es) (hk : k < es.length) (d : Entry) :
    Entry.Spells (BitVec.ofNat 8 (n + k)) (es.getD k d) := by
  induction es generalizing n k with
  | nil => cases hk
  | cons e es ih =>
    obtain ⟨hhead, htail⟩ := h
    cases k with
    | zero => exact hhead
    | succ k =>
      rw [List.getD_cons_succ, ← Nat.succ_add_eq_add_succ]
      exact ih htail (Nat.lt_of_succ_lt_succ hk)

/-! The format of every entry of the map, a row of sixteen at a time. -/

theorem opcodeRow0_spells : SpellsFrom 0x00 opcodeRow0 :=
  ⟨.two, .two, .two, .two,
   .one, .two, .two, .three,
   .one, .two, .one, .one,
   .one, .word, .word, .two, trivial⟩

theorem opcodeRow1_spells : SpellsFrom 0x10 opcodeRow1 :=
  ⟨.two, .two, .one, .two,
   .one, .two, .two, .three,
   .one, .word, .one, .one,
   .one, .word, .word, .two, trivial⟩

theorem opcodeRow2_spells : SpellsFrom 0x20 opcodeRow2 :=
  ⟨.word, .two, .two, .two,
   .two, .two, .two, .three,
   .one, .two, .one, .one,
   .word, .word, .word, .two, trivial⟩

theorem opcodeRow3_spells : SpellsFrom 0x30 opcodeRow3 :=
  ⟨.two, .two, .one, .two,
   .one, .two, .two, .three,
   .one, .word, .one, .one,
   .three, .word, .word, .two, trivial⟩

theorem opcodeRow4_spells : SpellsFrom 0x40 opcodeRow4 :=
  ⟨.one, .two, .one, .two,
   .two, .two, .two, .three,
   .one, .two, .one, .one,
   .word, .word, .word, .two, trivial⟩

theorem opcodeRow5_spells : SpellsFrom 0x50 opcodeRow5 :=
  ⟨.two, .two, .one, .two,
   .one, .two, .two, .three,
   .one, .word, .one, .one,
   .one, .word, .word, .two, trivial⟩

theorem opcodeRow6_spells : SpellsFrom 0x60 opcodeRow6 :=
  ⟨.one, .two, .one, .two,
   .two, .two, .two, .three,
   .one, .two, .one, .one,
   .word, .word, .word, .two, trivial⟩

theorem opcodeRow7_spells : SpellsFrom 0x70 opcodeRow7 :=
  ⟨.two, .two, .one, .two,
   .one, .two, .two, .three,
   .one, .word, .one, .one,
   .one, .word, .word, .two, trivial⟩

theorem opcodeRow8_spells : SpellsFrom 0x80 opcodeRow8 :=
  ⟨.two, .two, .two, .two,
   .two, .two, .two, .three,
   .one, .one, .one, .one,
   .word, .word, .word, .two, trivial⟩

theorem opcodeRow9_spells : SpellsFrom 0x90 opcodeRow9 :=
  ⟨.two, .two, .one, .two,
   .two, .two, .two, .three,
   .one, .word, .one, .one,
   .one, .word, .one, .two, trivial⟩

theorem opcodeRowA_spells : SpellsFrom 0xA0 opcodeRowA :=
  ⟨.two, .two, .two, .two,
   .two, .two, .two, .three,
   .one, .two, .one, .one,
   .word, .word, .word, .two, trivial⟩

theorem opcodeRowB_spells : SpellsFrom 0xB0 opcodeRowB :=
  ⟨.two, .two, .two, .two,
   .two, .two, .two, .three,
   .one, .word, .one, .one,
   .word, .word, .word, .two, trivial⟩

theorem opcodeRowC_spells : SpellsFrom 0xC0 opcodeRowC :=
  ⟨.two, .two, .one, .two,
   .two, .two, .two, .three,
   .one, .two, .one, .one,
   .word, .word, .word, .two, trivial⟩

theorem opcodeRowD_spells : SpellsFrom 0xD0 opcodeRowD :=
  ⟨.two, .two, .one, .two,
   .one, .two, .two, .three,
   .one, .word, .one, .one,
   .one, .word, .word, .two, trivial⟩

theorem opcodeRowE_spells : SpellsFrom 0xE0 opcodeRowE :=
  ⟨.two, .two, .one, .two,
   .two, .two, .two, .three,
   .one, .two, .one, .one,
   .word, .word, .word, .two, trivial⟩

theorem opcodeRowF_spells : SpellsFrom 0xF0 opcodeRowF :=
  ⟨.two, .two, .one, .two,
   .one, .two, .two, .three,
   .one, .word, .one, .one,
   .one, .word, .word, .two, trivial⟩

theorem opcodeMap_spells : SpellsFrom 0x00 opcodeMap := by
  simp only [opcodeMap, List.append_assoc]
  exact
    opcodeRow0_spells.append <| opcodeRow1_spells.append <| opcodeRow2_spells.append <| opcodeRow3_spells.append <|
    opcodeRow4_spells.append <| opcodeRow5_spells.append <| opcodeRow6_spells.append <| opcodeRow7_spells.append <|
    opcodeRow8_spells.append <| opcodeRow9_spells.append <| opcodeRowA_spells.append <| opcodeRowB_spells.append <|
    opcodeRowC_spells.append <| opcodeRowD_spells.append <| opcodeRowE_spells.append opcodeRowF_spells

theorem opcodeMap_length : opcodeMap.length = 2 ^ 8 := by
  simp only [opcodeMap, List.length_append]
  rfl

theorem decodeWith_spells (op : Byte) : Entry.Spells op (decodeWith op) := by
  have h := opcodeMap_spells.getD (opcodeMap_length ▸ op.isLt) (Forms.undef op)
  rwa [Nat.zero_add, BitVec.ofNat_toNat, BitVec.setWidth_eq] at h

/-! ## What the decoder reads -/

/-- The bytes of the instruction at opcode byte `op`: it and as many of the operand bytes as its length says (R80). -/
def instrBytes (op b1 b2 : Byte) : List Byte := [op, b1, b2].take (opcodeLength op)

theorem opcodeLength_bounds (op : Byte) : 1 ≤ opcodeLength op ∧ opcodeLength op ≤ 3 := by
  have hs := decodeWith_spells op
  rw [opcodeLength]
  generalize decodeWith op = e at hs
  cases hs with
  | one h => simp [h.length_eq]
  | two h => simp [(h 0#8).length_eq]
  | three h => simp [(h 0#8 0#8).length_eq]

theorem decodeWith_spelledBy (op b1 b2 : Byte) : (decodeWith op b1 b2).SpelledBy (instrBytes op b1 b2) := by
  have hs := decodeWith_spells op
  rw [instrBytes, opcodeLength]
  generalize decodeWith op = e at hs ⊢
  cases hs with
  | one h => simpa [h.length_eq] using h
  | two h => simpa [(h 0#8).length_eq] using h b1
  | three h => simpa [(h 0#8 0#8).length_eq] using h b1 b2

/-- Whatever follows the bytes of an instruction, the decoder reads it from them. -/
theorem decode_instrBytes (op b1 b2 : Byte) (rest : List Byte) :
    decode (instrBytes op b1 b2 ++ rest) = .ok (decodeWith op b1 b2) rest := by
  have hs := decodeWith_spells op
  generalize he : decodeWith op = e at hs
  cases hs with
  | one h =>
    have hlen : opcodeLength op = 1 := by rw [opcodeLength, he]; exact h.length_eq
    simpa [instrBytes, hlen, he] using decode_one rest hlen
  | two h =>
    have hlen : opcodeLength op = 2 := by rw [opcodeLength, he]; exact (h 0#8).length_eq
    simpa [instrBytes, hlen, he] using decode_two b1 rest hlen
  | three h =>
    have hlen : opcodeLength op = 3 := by rw [opcodeLength, he]; exact (h 0#8 0#8).length_eq
    simpa [instrBytes, hlen, he] using decode_three b1 b2 rest hlen

theorem instrBytes_length (op b1 b2 : Byte) : (instrBytes op b1 b2).length = opcodeLength op := by
  simp [instrBytes, (opcodeLength_bounds op).2]

theorem decodeWith_length (op b1 b2 : Byte) : (decodeWith op b1 b2).length = opcodeLength op :=
  (decodeWith_spelledBy op b1 b2).length_eq.trans (instrBytes_length op b1 b2)

/-- The decoder answers exactly where the bytes of an instruction stand in front. -/
theorem decode_eq_ok_iff {bytes rest : List Byte} {i : Instr} :
    decode bytes = .ok i rest ↔ ∃ op b1 b2, decodeWith op b1 b2 = i ∧ instrBytes op b1 b2 ++ rest = bytes := by
  constructor
  · intro h
    unfold decode at h
    split at h
    case h_1 => cases h
    case h_2 op tail =>
      split at h <;> cases h
      case h_1 hlen => exact ⟨op, 0#8, 0#8, rfl, by simp [instrBytes, hlen]⟩
      case h_2 b1 hlen => exact ⟨op, b1, 0#8, rfl, by simp [instrBytes, hlen]⟩
      case h_3 b1 b2 hlen => exact ⟨op, b1, b2, rfl, by simp [instrBytes, hlen]⟩
  · rintro ⟨op, b1, b2, rfl, rfl⟩
    exact decode_instrBytes op b1 b2 rest

/-- A byte sequence that is long enough for its opcode byte begins with the bytes of an instruction. -/
theorem exists_instrBytes {op : Byte} {tail : List Byte} (h : opcodeLength op - 1 ≤ tail.length) :
    ∃ b1 b2, instrBytes op b1 b2 ++ tail.drop (opcodeLength op - 1) = op :: tail := by
  have hbounds := opcodeLength_bounds op
  obtain hlen | hlen | hlen : opcodeLength op = 1 ∨ opcodeLength op = 2 ∨ opcodeLength op = 3 := by omega
  all_goals rw [hlen] at h; simp only [instrBytes, hlen]
  · exact ⟨0#8, 0#8, rfl⟩
  · obtain ⟨b1, tail, rfl⟩ := List.exists_cons_of_length_pos h
    exact ⟨b1, 0#8, rfl⟩
  · match tail, h with
    | b1 :: b2 :: tail, _ => exact ⟨b1, b2, rfl⟩

/-! ## The rows of the opcode table -/

/-- The opcode map has the instruction, at the opcode byte of its encoding (R89). -/
def Instr.IsRow (i : Instr) : Prop := ∃ b1 b2, decodeWith ((encode i).headD 0#8) b1 b2 = i

theorem exists_wordOf (w : Addr) : ∃ b1 b2, wordOf b1 b2 = w :=
  ⟨w.extractLsb' 0 8, w.extractLsb' 8 8, wordOf_addrBytes w⟩

/-- Every memory form is one of the eight with two operand bytes, of which a form of one byte ignores the second (R81). -/
theorem MemForm.exists_operands (f : MemForm) :
    ∃ b1 b2, f = .zp b1 ∨ f = .zpx b1 ∨ f = .zpy b1 ∨ f = .idx b1 ∨ f = .idy b1 ∨
      f = .abs (wordOf b1 b2) ∨ f = .abx (wordOf b1 b2) ∨ f = .aby (wordOf b1 b2) := by
  cases f
  case abs w | abx w | aby w =>
    obtain ⟨b1, b2, rfl⟩ := exists_wordOf w
    exact ⟨b1, b2, by simp⟩
  case zp zz | zpx zz | zpy zz | idx zz | idy zz => exact ⟨zz, 0#8, by simp⟩

theorem bitIndex_cases : ∀ i : BitVec 3, i = 0 ∨ i = 1 ∨ i = 2 ∨ i = 3 ∨ i = 4 ∨ i = 5 ∨ i = 6 ∨ i = 7 := by decide

/-- Every well-formed instruction is a row of the table; a form that its mnemonic lacks is not well formed (`cases h`). -/
theorem isRow_of_wf {i : Instr} (h : i.wf = true) : i.IsRow := by
  cases i
  case adc f | sbc f | cmp f | and f | ora f | eor f | lda f | cpx f | cpy f | ldx f | ldy f =>
    rcases f with v | f
    · exact ⟨v, 0#8, rfl⟩
    · obtain ⟨b1, b2, rfl | rfl | rfl | rfl | rfl | rfl | rfl | rfl⟩ := f.exists_operands <;> cases h <;> exact ⟨b1, b2, rfl⟩
  case asl f | rol f | lsr f | ror f | inc f | dec f =>
    rcases f with _ | f
    · exact ⟨0#8, 0#8, rfl⟩
    · obtain ⟨b1, b2, rfl | rfl | rfl | rfl | rfl | rfl | rfl | rfl⟩ := f.exists_operands <;> cases h <;> exact ⟨b1, b2, rfl⟩
  case bit f | sta f | stx f | sty f =>
    obtain ⟨b1, b2, rfl | rfl | rfl | rfl | rfl | rfl | rfl | rfl⟩ := f.exists_operands <;> cases h <;> exact ⟨b1, b2, rfl⟩
  case seb n f | clb n f =>
    rcases f with _ | zz
    · rcases bitIndex_cases n with rfl | rfl | rfl | rfl | rfl | rfl | rfl | rfl <;> exact ⟨0#8, 0#8, rfl⟩
    · rcases bitIndex_cases n with rfl | rfl | rfl | rfl | rfl | rfl | rfl | rfl <;> exact ⟨zz, 0#8, rfl⟩
  case bbs n f rel | bbc n f rel =>
    rcases f with _ | zz
    · rcases bitIndex_cases n with rfl | rfl | rfl | rfl | rfl | rfl | rfl | rfl <;> exact ⟨rel, 0#8, rfl⟩
    · rcases bitIndex_cases n with rfl | rfl | rfl | rfl | rfl | rfl | rfl | rfl <;> exact ⟨zz, rel, rfl⟩
  case jmp f =>
    rcases f with w | w | zz
    · obtain ⟨b1, b2, rfl⟩ := exists_wordOf w
      exact ⟨b1, b2, rfl⟩
    · obtain ⟨b1, b2, rfl⟩ := exists_wordOf w
      exact ⟨b1, b2, rfl⟩
    · exact ⟨zz, 0#8, rfl⟩
  case jsr f =>
    rcases f with w | zz | zz
    · obtain ⟨b1, b2, rfl⟩ := exists_wordOf w
      exact ⟨b1, b2, rfl⟩
    · exact ⟨zz, 0#8, rfl⟩
    · exact ⟨zz, 0#8, rfl⟩
  case undefined op => exact ⟨0#8, 0#8, (undefined_decodes op (List.contains_iff_mem.mp h)).2⟩
  case refusedOpcode op => exact ⟨0#8, 0#8, (refused_decodes op (List.contains_iff_mem.mp h)).2⟩
  case ldm v zz => exact ⟨v, zz, rfl⟩
  case com b | tst b | rrf b | brk b | bpl b | bmi b | bvc b | bvs b | bcc b | bcs b | bne b | beq b | bra b =>
    exact ⟨b, 0#8, rfl⟩
  all_goals exact ⟨0#8, 0#8, rfl⟩

/-! ## The opcode bytes of the bit instructions -/

theorem bitOpcode_toNat (i : BitVec 3) (base : BitVec 5) : (bitOpcode i base).toNat = 32 * i.toNat + base.toNat := by
  rw [bitOpcode, BitVec.toNat_append, ← Nat.shiftLeft_add_eq_or_of_lt base.isLt, Nat.shiftLeft_eq, Nat.mul_comm]

theorem encodeBit_acc_toNat (i : BitVec 3) (accBase zpBase : BitVec 5) :
    (encodeBit i accBase zpBase .acc).map BitVec.toNat = [32 * i.toNat + accBase.toNat] := by
  rw [encodeBit, List.map_singleton, bitOpcode_toNat]

theorem encodeBit_zp_toNat (i : BitVec 3) (accBase zpBase : BitVec 5) (zz : Byte) :
    (encodeBit i accBase zpBase (.zp zz)).map BitVec.toNat = [32 * i.toNat + zpBase.toNat, zz.toNat] := by
  rw [encodeBit, List.map_cons, List.map_singleton, bitOpcode_toNat]

/-! ## The count of the admitted opcode bytes -/

/-- The admitted ones (R88) among the `len` opcode bytes from `first` on. -/
def admittedBytes (first len : Nat) : List Nat :=
  (List.range' first len).filter fun n => (decodeWith (BitVec.ofNat 8 n) 0#8 0#8).admitted

theorem admittedBytes_append (first m n : Nat) :
    admittedBytes first m ++ admittedBytes (first + m) n = admittedBytes first (m + n) := by
  rw [admittedBytes, admittedBytes, ← List.filter_append, List.range'_append_1, admittedBytes]

/-- Counted a quarter of the map at a time. -/
theorem admittedBytes_length : (admittedBytes 0 256).length = 229 := by
  have h0 : (admittedBytes 0x00 64).length = 59 := by decide
  have h1 : (admittedBytes 0x40 64).length = 55 := by decide
  have h2 : (admittedBytes 0x80 64).length = 60 := by decide
  have h3 : (admittedBytes 0xC0 64).length = 55 := by decide
  have hsplit : admittedBytes 0x00 64 ++ admittedBytes 0x40 64 ++ admittedBytes 0x80 64 ++ admittedBytes 0xC0 64 =
      admittedBytes 0 256 := by
    rw [admittedBytes_append 0x00 64 64, admittedBytes_append 0x00 128 64, admittedBytes_append 0x00 192 64]
  rw [← hsplit, List.length_append, List.length_append, List.length_append, h0, h1, h2, h3]

end Sys2Proof

namespace Sys2Proof.Certificates

/-- Settles O2: a well-formed instruction is a row of the table, which the decoder reads from the bytes that spell it. -/
theorem decodeOfEncodeIsTheInstruction : Obligations.DecodeOfEncodeIsTheInstruction := by
  intro i rest hwf
  obtain ⟨op, b1, b2, rfl⟩ : ∃ op b1 b2, decodeWith op b1 b2 = i := ⟨_, isRow_of_wf hwf⟩
  rw [(decodeWith_spelledBy op b1 b2).encode_eq]
  exact decode_instrBytes op b1 b2 rest

/-- Settles O3: what the decoder answers stands in front of the byte sequence, spelled by the bytes of its instruction. -/
theorem encodeOfDecodeIsTheBytes : Obligations.EncodeOfDecodeIsTheBytes := by
  intro bytes rest i hdecode
  obtain ⟨op, b1, b2, rfl, rfl⟩ := decode_eq_ok_iff.mp hdecode
  have hspelled := decodeWith_spelledBy op b1 b2
  exact ⟨hspelled.wf, by rw [hspelled.encode_eq]⟩

/-- Settles O4: the format of the opcode byte fixes the length; a sequence of that length begins with the bytes of an instruction,
and a shorter one cannot be what an answer was decoded from. -/
theorem lengthIsFixedByTheOpcodeByte : Obligations.LengthIsFixedByTheOpcodeByte := by
  intro op b1 b2
  obtain ⟨hpos, hle⟩ := opcodeLength_bounds op
  refine ⟨decodeWith_length op b1 b2, hpos, hle, fun rest => ⟨?_, fun hlong => ?_⟩⟩
  · rintro ⟨i, rest', hdecode, hlen, -⟩
    obtain ⟨op', c1, c2, rfl, hbytes⟩ := decode_eq_ok_iff.mp hdecode
    have hcount := congrArg List.length hbytes
    rw [List.length_append, instrBytes_length, ← decodeWith_length op' c1 c2, hlen, List.length_cons] at hcount
    omega
  · obtain ⟨c1, c2, hbytes⟩ := exists_instrBytes hlong
    exact ⟨_, _, hbytes ▸ decode_instrBytes op c1 c2 _, decodeWith_length op c1 c2, rfl⟩

/-- Settles O1, by running the decoder on each word. -/
theorem sampleWordsDecodeAsSpecified : Obligations.SampleWordsDecodeAsSpecified := by
  unfold Obligations.SampleWordsDecodeAsSpecified
  decide

/-- Settles O5: the admitted bytes are counted over the whole map; the other two lists are those of the decoder's laws. -/
theorem opcodeMapCoversAllBytes : Obligations.OpcodeMapCoversAllBytes :=
  ⟨List.range_eq_range' ▸ admittedBytes_length, fun op h => (undefined_decodes op h).2, rfl,
    fun op h => (refused_decodes op h).2, rfl⟩

/-- Settles O6: the opcode byte of a bit form is the index above the five bits of its base. -/
theorem bitIndexIsInOpcodeBitsSevenToFive : Obligations.BitIndexIsInOpcodeBitsSevenToFive := by
  intro i zz rel
  simp [encode, encodeBit_acc_toNat, encodeBit_zp_toNat]

end Sys2Proof.Certificates
end

section
/-! The execution family (spec/40_execution.md): what a step serves or runs, `run_for`, and the operands. Each statement is assembled from
one equation per operation: the four of the step by its run state, `State.entry_effect` for what an interrupt's step does,
`State.fetchInstr_of_decode` for the fetch, and the three that say where `runFor` goes on and where it ends. -/

open Sys2Proof Sys2Proof.Machine

namespace Sys2Proof.Machine

/-! ## The step, by the run state (R110) -/

variable {s : State}

theorem step_of_stopped (hrun : s.run = .stopped) : step s = .fault .stuckStopped := by
  simp only [step, hrun]

theorem step_of_waiting (hrun : s.run = .waiting) (hint : s.interruptTakeable = false) : step s = .fault .stuckWaiting := by
  simp [step, hrun, hint]

/-- A running core polls unless the boundary follows an entry (R111); a waiting one always does (R290). -/
theorem step_of_served (hboundary : s.run = .running ∧ s.skipPoll = false ∨ s.run = .waiting)
    (hint : s.interruptTakeable = true) : step s = .next s.clearTrace.serveInterrupt := by
  rcases hboundary with ⟨hrun, hskip⟩ | hrun
  · simp [step, hrun, hskip, hint]
  · simp [step, hrun, hint]

theorem step_of_not_served (hrun : s.run = .running) (hpoll : s.skipPoll = true ∨ s.interruptTakeable = false) :
    step s = exec s.clearTrace.fetchInstr.1 s.clearTrace.fetchInstr.2 := by
  rcases hpoll with hskip | hint
  · simp [step, hrun, hskip]
  · simp [step, hrun, hint]

/-! ## The selected line (R313) -/

/-- Where a line is asserted there is a lowest one. -/
theorem exists_lowestLine {lines : BitVec 15} (h : lines ≠ 0#15) :
    ∃ n, n < 15 ∧ lines.getLsbD n = true ∧ (∀ m, m < n → lines.getLsbD m = false) ∧ lowestLine lines = some n := by
  cases hlow : lowestLine lines with
  | none =>
    refine absurd (BitVec.eq_of_getLsbD_eq fun n hn => ?_) h
    simpa [hn] using List.find?_range_eq_none.mp hlow n hn
  | some n =>
    obtain ⟨hset, hmem, hleast⟩ := List.find?_range_eq_some.mp hlow
    exact ⟨n, List.mem_range.mp hmem, hset, by simpa using hleast, rfl⟩

/-- With no NMI to serve it is an asserted line that makes an interrupt takeable (R314). -/
theorem State.lines_ne_zero_of_takeable (hint : s.interruptTakeable = true)
    (hnmi : ¬(s.cfg.hasNmi = true ∧ s.nmiPending = true)) : s.lines ≠ 0#15 := by
  simp only [State.interruptTakeable, Bool.or_eq_true, Bool.and_eq_true, bne_iff_ne] at hint
  exact (hint.resolve_left hnmi).1

/-! ## The entry, whole (R320) -/

/-- A waiting core runs again (R321). -/
theorem State.serveInterrupt_run (s : State) : s.serveInterrupt.run = .running := by
  obtain ⟨u, hu, he⟩ := s.serveInterrupt_keeps
  rw [he]
  exact hu.run

theorem State.entryVector_eq (s : State) (src : EntrySource) : s.entryVector src = Certificates.vectorAddress s.cfg src := by
  cases src with
  | nmi => rfl
  | line n => exact lineVector_eq s.cfg n
  | brk => rfl

theorem EntrySource.latchAfter_eq (src : EntrySource) (pending : Bool) :
    src.latchAfter pending = if src = .nmi then false else pending := by
  cases src <;> simp [EntrySource.latchAfter]

/-- The state with the NMI latch as an entry of this source leaves it. -/
def State.latched (s : State) (src : EntrySource) : State := { s with nmiPending := src.latchAfter s.nmiPending }

/-- The state in which an entry reads its vector: the latch settled, the frame pushed. -/
def State.entryFrame (s : State) (src : EntrySource) : State := (s.latched src).pushFrame src.breakBit

theorem State.entry_eq_goThroughVector (s : State) (src : EntrySource) :
    s.entry src = (s.entryFrame src).goThroughVector (s.entryVector src) := rfl

/-- An entry, but for memory, which holds the frame. -/
theorem State.entry_eq (s : State) (src : EntrySource) : ∃ lo hi,
    Certificates.Answers (s.entry src) (s.entryVector src) lo ∧ Certificates.Answers (s.entry src) (s.entryVector src + 1) hi ∧
    s.entry src = { s with
      pc := join hi lo, sp := s.sp - 3, p := { s.p with i := s.cfg.entryIValue }
      nmiPending := src.latchAfter s.nmiPending, skipPoll := true, mem := (s.entryFrame src).mem
      trace := s.trace ++ [.write (join s.cfg.stackPage s.sp) (highByte s.pc),
        .write (join s.cfg.stackPage (s.sp - 1)) (lowByte s.pc),
        .write (join s.cfg.stackPage (s.sp - 2)) (packP s.p src.breakBit),
        .read (s.entryVector src) lo, .read (s.entryVector src + 1) hi]
      busTick := s.busTick + 5 } := by
  have hframe := (s.latched src).pushFrame_eq src.breakBit
  obtain ⟨lo, hi, hlo, hhi, hgo⟩ := (s.entryFrame src).goThroughVector_eq (s.entryVector src)
  rw [s.entry_eq_goThroughVector, hgo]
  refine ⟨lo, hi, hlo, hhi, ?_⟩
  rw [State.entryFrame, hframe]
  simp [State.latched]

/-- The entry sequence from any state with canonical memory, for each of the three kinds of source. -/
theorem State.entry_effect (src : EntrySource) (hw : Memory.wf s.mem = true) :
    Certificates.EntryEffect s (s.entry src) src (Certificates.vectorAddress s.cfg src) src.breakBit := by
  obtain ⟨lo, hi, hlo, hhi, hentry⟩ := s.entry_eq src
  rw [← s.entryVector_eq src]
  rw [hentry] at hlo hhi ⊢
  exact ⟨lo, hi, rfl, hlo, hhi, rfl, rfl, rfl, rfl, src.latchAfter_eq s.nmiPending,
    fun _ => (s.latched src).pushFrame_peek_other src.breakBit,
    State.pushFrame_peek_high (s := s.latched src) src.breakBit hw,
    State.pushFrame_peek_low (s := s.latched src) src.breakBit hw,
    State.pushFrame_peek_status (s := s.latched src) src.breakBit hw, rfl⟩

/-! ## Fetching the bytes that decode (R112, R113) -/

/-- The core `k` bytes into an instruction. -/
def State.fetching (s : State) (k : Nat) : State :=
  { s with
    skipPoll := false
    pc := s.pc + BitVec.ofNat 16 k
    trace := (List.range k).map fun j => .read (s.pc + BitVec.ofNat 16 j) (Certificates.fetchedByte s j)
    busTick := s.busTick + k }

theorem State.fetching_zero (s : State) : s.fetching 0 = { s.clearTrace with skipPoll := false } := by
  simp [State.fetching, State.clearTrace]

theorem State.fetchByte_fetching (s : State) (k : Nat) :
    (s.fetching k).fetchByte = (Certificates.fetchedByte s k, s.fetching (k + 1)) := by
  have hvalue : (s.fetching k).busValue (s.fetching k).pc = Certificates.fetchedByte s k := State.busValue_congr _ rfl rfl rfl
  have hpc : s.pc + BitVec.ofNat 16 k + 1#16 = s.pc + BitVec.ofNat 16 (k + 1) := by
    rw [BitVec.add_assoc, ← BitVec.ofNat_add]
  simp only [State.fetchByte, State.read8, hvalue]
  simp [State.fetching, State.record, State.setPC, List.range_succ, hpc, Nat.add_assoc]

/-- Bytes that decode to an instruction begin with an opcode byte of its length. -/
theorem opcodeLength_fetchedByte {i : Instr}
    (hdecode : decode ((List.range i.length).map (Certificates.fetchedByte s)) = .ok i []) :
    opcodeLength (Certificates.fetchedByte s 0) = i.length := by
  obtain ⟨op, b1, b2, rfl, hbytes⟩ := decode_eq_ok_iff.mp hdecode
  have hlen := decodeWith_length op b1 b2
  have hne : opcodeLength op ≠ 0 := Nat.ne_of_gt (opcodeLength_bounds op).1
  have hop : op = Certificates.fetchedByte s 0 := by
    have hhead := congrArg List.head? hbytes
    simpa [instrBytes, hlen, hne, List.head?_take, List.head?_range] using hhead
  rw [hlen, hop]

/-- After the opcode byte the operand bytes that its length asks for are fetched, and what they decode to is what `decode` reads. -/
theorem State.fetchOperands_of_decode {i : Instr}
    (hdecode : decode ((List.range i.length).map (Certificates.fetchedByte s)) = .ok i []) :
    (s.fetching 1).fetchOperands (Certificates.fetchedByte s 0) = (i, s.fetching i.length) := by
  have hlen := opcodeLength_fetchedByte hdecode
  obtain h | h | h : i.length = 1 ∨ i.length = 2 ∨ i.length = 3 := by
    have hbounds := opcodeLength_bounds (Certificates.fetchedByte s 0)
    omega
  all_goals rw [h] at hdecode hlen ⊢
  · obtain ⟨rfl⟩ := DecodeResult.ok.inj ((decode_one [] hlen).symm.trans hdecode)
    simp only [State.fetchOperands, hlen]
  · obtain ⟨rfl⟩ := DecodeResult.ok.inj ((decode_two _ [] hlen).symm.trans hdecode)
    simp only [State.fetchOperands, hlen, State.fetchByte_fetching]
  · obtain ⟨rfl⟩ := DecodeResult.ok.inj ((decode_three _ _ [] hlen).symm.trans hdecode)
    simp only [State.fetchOperands, hlen, State.fetchByte_fetching]

/-- The whole fetch of a step. -/
theorem State.fetchInstr_of_decode {i : Instr}
    (hdecode : decode ((List.range i.length).map (Certificates.fetchedByte s)) = .ok i []) :
    s.clearTrace.fetchInstr = (i, s.fetching i.length) := by
  simp only [State.fetchInstr, ← s.fetching_zero, State.fetchByte_fetching]
  exact State.fetchOperands_of_decode hdecode

/-! ## `run_for` (R116) -/

variable {cycleCount : State → Nat} {fuel budget : Nat}

theorem runFor_succ_of_next {t : State} (hle : cycleCount s ≤ budget) (hstep : step s = .next t) :
    runFor cycleCount (fuel + 1) budget s = runFor cycleCount fuel (budget - cycleCount s) t := by
  simp [runFor, hle, hstep]

theorem runFor_of_not_next (hstep : ∀ t, step s ≠ .next t) : runFor cycleCount fuel budget s = s := by
  cases fuel with
  | zero => rfl
  | succ fuel =>
    cases h : step s with
    | next t => exact absurd h (hstep t)
    | fault r | refused r => simp [runFor, h]

theorem runFor_of_budget_lt (hlt : budget < cycleCount s) : runFor cycleCount fuel budget s = s := by
  cases fuel with
  | zero => rfl
  | succ fuel => simp [runFor, Nat.not_le.mpr hlt]

/-! ## Operands -/

theorem addIndex_toNat (w : Addr) (b : Byte) : (w + zext16 b).toNat = (w.toNat + b.toNat) % 65536 := by
  rw [BitVec.toNat_add, zext16_toNat]

/-- After reads alone the bus may answer what it could before. -/
theorem State.ReadsOnly.answers {t : State} {a : Addr} {v : Byte} (h : s.ReadsOnly t) (ht : Certificates.Answers t a v) :
    Certificates.Answers s a v := by
  intro hkind
  rw [← h.busOnly.kindAt_eq a] at hkind
  rw [ht hkind, h.peek_eq a]

theorem State.read8_answers (s : State) (a : Addr) : Certificates.Answers s a (s.read8 a).1 :=
  State.busValue_of_not_oracle

theorem State.effectiveAddress_idy_eq (s : State) (zz : Byte) :
    s.effectiveAddress (.idy zz) = ((s.read16zp zz).1 + zext16 s.y, (s.read16zp zz).2) := rfl

/-- The two bytes of a zero-page pointer, at their addresses as numbers (R133). -/
theorem State.read16zp_answers (s : State) (p : Byte) : ∃ lo hi,
    Certificates.Answers s (BitVec.ofNat 16 p.toNat) lo ∧ Certificates.Answers s (BitVec.ofNat 16 ((p.toNat + 1) % 256)) hi ∧
    s.read16zp p = (join hi lo, { s with
      trace := s.trace ++ [.read (BitVec.ofNat 16 p.toNat) lo, .read (BitVec.ofNat 16 ((p.toNat + 1) % 256)) hi]
      busTick := s.busTick + 2 }) := by
  have hnext : zeroPage (p + 1) = BitVec.ofNat 16 ((p.toNat + 1) % 256) := zeroPage_add p 1
  rw [← zeroPage_eq, ← hnext]
  exact s.read16zp_eq p

/-- The two bytes of an address, the second modulo 2^16 (R133). -/
theorem State.read16_answers (s : State) (a : Addr) : ∃ lo hi,
    Certificates.Answers s a lo ∧ Certificates.Answers s (BitVec.ofNat 16 (a.toNat + 1)) hi ∧
    s.read16 a = (join hi lo, { s with
      trace := s.trace ++ [.read a lo, .read (BitVec.ofNat 16 (a.toNat + 1)) hi], busTick := s.busTick + 2 }) := by
  rw [BitVec.ofNat_add, BitVec.ofNat_toNat, BitVec.setWidth_eq]
  exact s.read16_eq a

end Sys2Proof.Machine

namespace Sys2Proof.Certificates

/-- Settles O9: the boundary serves, the entry has its whole effect for any source, and the selected source is the NMI or, some line
being asserted, the lowest one. -/
theorem stepServesTheSelectedInterrupt : Obligations.StepServesTheSelectedInterrupt := by
  intro s hw hint hboundary
  have heffect : EntryEffect { s with trace := [], run := .running } s.clearTrace.serveInterrupt s.selectedSource
      (vectorAddress s.cfg s.selectedSource) s.selectedSource.breakBit := State.entry_effect s.selectedSource hw
  refine ⟨_, step_of_served hboundary hint, s.clearTrace.serveInterrupt_run, ?_⟩
  rcases s.selectedSource_cases with ⟨hhas, hpending, hsrc⟩ | ⟨hnmi, hsrc⟩
  · rw [hsrc] at heffect
    exact .inl ⟨hhas, hpending, heffect⟩
  · obtain ⟨n, hn, hset, hleast, hlow⟩ := exists_lowestLine (State.lines_ne_zero_of_takeable hint hnmi)
    rw [hlow] at hsrc
    rw [hsrc] at heffect
    exact .inr ⟨hnmi, n, hn, hset, hleast, heffect⟩

/-- Settles O23, by induction on the bound: a step is taken where there is one and its count fits; else the run ends, for one of the
two reasons. -/
theorem runForStepsWhileWithinItsBudget : Obligations.RunForStepsWhileWithinItsBudget := by
  intro cycleCount fuel
  induction fuel with
  | zero => exact fun budget s => ⟨[], rfl, Nat.le_refl 0, Nat.zero_le budget, .inl rfl⟩
  | succ fuel ih =>
    intro budget s
    by_cases hstuck : ∀ t, step s ≠ .next t
    · rw [runFor_of_not_next hstuck]
      exact ⟨[], rfl, Nat.zero_le _, Nat.zero_le budget, .inr (.inr hstuck)⟩
    obtain ⟨t, hstep⟩ := Classical.not_forall_not.mp hstuck
    rcases Nat.lt_or_ge budget (cycleCount s) with hlt | hle
    · rw [runFor_of_budget_lt hlt]
      exact ⟨[], rfl, Nat.zero_le _, Nat.zero_le budget, .inr (.inl (by simpa using hlt))⟩
    · obtain ⟨path, hpath, hlen, hsum, hend⟩ := ih (budget - cycleCount s) t
      rw [runFor_succ_of_next hle hstep]
      refine ⟨s :: path, ⟨rfl, t, hstep, hpath⟩, Nat.succ_le_succ hlen, ?_⟩
      rw [List.map_cons, List.sum_cons, List.length_cons]
      refine ⟨by omega, ?_⟩
      rcases hend with hfuel | hover | hstuck
      · exact .inl (by rw [hfuel])
      · exact .inr (.inl (by omega))
      · exact .inr (.inr hstuck)

/-- Settles O28: the index is added modulo 256 in page zero and modulo 2^16 elsewhere; an indirect form reads its pointer first. -/
theorem effectiveAddressOfEachForm : Obligations.EffectiveAddressOfEachForm := by
  intro s zz hhll
  have hzpx : (zeroPage (zz + s.x)).toNat = (zz.toNat + s.x.toNat) % 256 := (zeroPage_toNat _).trans (BitVec.toNat_add zz s.x)
  have hzpy : (zeroPage (zz + s.y)).toNat = (zz.toNat + s.y.toNat) % 256 := (zeroPage_toNat _).trans (BitVec.toNat_add zz s.y)
  refine ⟨zeroPage_toNat zz, rfl, hzpx, rfl, hzpy, rfl, rfl, addIndex_toNat hhll s.x, rfl, addIndex_toNat hhll s.y, rfl, ?_, ?_⟩
  · obtain ⟨lo, hi, hlo, hhi, hread⟩ := s.read16zp_answers (zz + s.x)
    rw [BitVec.toNat_add] at hlo hhi hread
    rw [Nat.mod_add_mod] at hhi hread
    exact ⟨lo, hi, hlo, hhi, hread⟩
  · obtain ⟨lo, hi, hlo, hhi, hread⟩ := s.read16zp_answers zz
    rw [s.effectiveAddress_idy_eq, hread]
    exact ⟨lo, hi, hlo, hhi, by rw [addIndex_toNat, join_toNat], rfl⟩

/-- Settles O60: both helpers are two reads in order, the second at the wrapped address. -/
theorem read16IsLittleEndian : Obligations.Read16IsLittleEndian := by
  intro s a p
  constructor
  · obtain ⟨lo, hi, hlo, hhi, hread⟩ := s.read16_answers a
    exact ⟨lo, hi, hlo, hhi, by rw [hread, join_toNat], by rw [hread]⟩
  · obtain ⟨lo, hi, hlo, hhi, hread⟩ := s.read16zp_answers p
    exact ⟨lo, hi, hlo, hhi, by rw [hread, join_toNat], by rw [hread]⟩

/-- Settles O29: the pointer's reads change neither memory nor its map, so they leave what the bus may answer at the operand. -/
theorem loadReadsTheOperandOnce : Obligations.LoadReadsTheOperandOnce := by
  intro s v f
  have hpointer := s.effectiveAddress_readsOnly f
  exact ⟨rfl, hpointer.answers (State.read8_answers _ _), rfl, s.loadMem_readsOnly f, hpointer⟩

/-- Settles O7: with nothing served the step executes what it fetches, which is what the fetched bytes decode to. -/
theorem stepExecutesDecodedInstruction : Obligations.StepExecutesDecodedInstruction := by
  intro s i hrun hpoll hdecode
  rw [step_of_not_served hrun hpoll, State.fetchInstr_of_decode hdecode]
  rfl

/-- Settles O8: the two boundaries that have no move (R290, R291). -/
theorem stoppedAndWaitingCoresAreStuck : Obligations.StoppedAndWaitingCoresAreStuck :=
  fun _ => ⟨step_of_stopped, step_of_waiting⟩

end Sys2Proof.Certificates
end

section
/-! The arithmetic family (spec/41_arith.md). The sum of R150 is read once as one equation of its result byte and its carry, and the
difference of R152 is the sum with the complement of the second operand. A decimal result is its two corrected nibbles. An instruction's
effect is that of the shared operation it runs: the routed operands and result (R128), or Modify (R127). -/

open Sys2Proof Sys2Proof.Machine

namespace Sys2Proof.Machine

/-! ## Binary add and subtract (R150, R152) -/

theorem bit7_eq_decide (b : Byte) : bit7 b = decide (128 ≤ b.toNat) :=
  (BitVec.msb_eq_getLsbD_last b).symm.trans (BitVec.msb_eq_decide b)

theorem bit7_not (b : Byte) : bit7 (~~~b) = !bit7 b := by
  simp [bit7]

theorem toNat_add_toNat_not (b : Byte) : b.toNat + (~~~b).toNat = 255 := by
  have hb := b.isLt
  rw [BitVec.toNat_not]
  omega

theorem toInt_eq_ite (b : Byte) : b.toInt = if 128 ≤ b.toNat then (b.toNat : Int) - 256 else b.toNat := by
  rw [BitVec.toInt_eq_msb_cond, BitVec.msb_eq_decide]
  simp

/-- The two ways R150 writes V are one function of the sign bits of the operands and the result. -/
theorem overflow_forms : ∀ a7 m7 r7 : Bool, (a7 == m7 && r7 != a7) = (!(a7 ^^ m7) && (a7 ^^ r7)) := by decide

theorem bne_eq_beq_not : ∀ x y : Bool, (x != y) = (x == !y) := by decide

section
variable (a m : Byte) (c : Bool)

theorem addBin_v : (addBin a m c).v = (bit7 a == bit7 m && bit7 (addBin a m c).r != bit7 a) := rfl

theorem addBin_sum : (addBin a m c).r.toNat + 256 * (addBin a m c).c.toNat = a.toNat + m.toNat + c.toNat := by
  have ha := a.isLt
  have hm := m.isLt
  have hc := c.toNat_le
  by_cases h : a.toNat + m.toNat + c.toNat > 0xFF
  · simp only [addBin, h, decide_true, Bool.toNat_true, BitVec.toNat_ofNat]
    omega
  · simp only [addBin, h, decide_false, Bool.toNat_false, BitVec.toNat_ofNat]
    omega

/-- The operands have one sign and the result the other exactly where the signed sum is out of range. -/
theorem addBin_overflow : (addBin a m c).v = true ↔
    (a.toInt + m.toInt + c.toNat < -128 ∨ a.toInt + m.toInt + c.toNat > 127) := by
  have hsum := addBin_sum a m c
  have hr := (addBin a m c).r.isLt
  have hcarry := (addBin a m c).c.toNat_le
  have ha := a.isLt
  have hm := m.isLt
  have hc := c.toNat_le
  simp only [addBin_v, bit7_eq_decide, toInt_eq_ite, Bool.and_eq_true, beq_iff_eq, bne_iff_ne, ne_eq, decide_eq_decide]
  omega

theorem addBin_v_eq_bit : (addBin a m c).v = (~~~(a ^^^ m) &&& (a ^^^ (addBin a m c).r)).getLsbD 7 := by
  rw [addBin_v, overflow_forms]
  simp [bit7]

/-- A subtract is the add of the complement: `a - m - (1 - c)` is `a + (255 - m) + c` less 256. -/
theorem subBin_eq_addBin_not : subBin a m c = addBin a (~~~m) c := by
  have hnot := toNat_add_toNat_not m
  have hr : BitVec.ofInt 8 ((a.toNat : Int) - m.toNat - (1 - c.toNat)) = BitVec.ofNat 8 (a.toNat + (~~~m).toNat + c.toNat) := by
    apply BitVec.eq_of_toNat_eq
    simp only [BitVec.toNat_ofInt, BitVec.toNat_ofNat]
    omega
  simp only [subBin, addBin, hr, bit7_not, bne_eq_beq_not (bit7 a) (bit7 m), AluResult.mk.injEq, decide_eq_decide, true_and]
  omega

theorem subBin_difference :
    ((subBin a m c).r.toNat : Int) = a.toNat - m.toNat - (1 - c.toNat) + 256 * (1 - (subBin a m c).c.toNat) := by
  have hsum := addBin_sum a (~~~m) c
  have hnot := toNat_add_toNat_not m
  rw [subBin_eq_addBin_not]
  omega

theorem subBin_overflow : (subBin a m c).v = true ↔
    (a.toInt - m.toInt - (1 - c.toNat) < -128 ∨ a.toInt - m.toInt - (1 - c.toNat) > 127) := by
  have hnot := toNat_add_toNat_not m
  have hnotInt : (~~~m).toInt = -m.toInt - 1 := by
    rw [toInt_eq_ite, toInt_eq_ite]
    omega
  rw [subBin_eq_addBin_not, addBin_overflow, hnotInt]
  omega

theorem subBin_v_eq_bit : (subBin a m c).v = ((a ^^^ m) &&& (a ^^^ (subBin a m c).r)).getLsbD 7 := by
  rw [subBin_eq_addBin_not, addBin_v_eq_bit]
  simp

/-! ## Decimal add and subtract (R151, R153) -/

/-- The sum of the low nibbles and the carry. -/
def lowSum : Nat := lowNibble a + lowNibble m + c.toNat

/-- The sum of the high nibbles and the low nibble's correction. -/
def highSum : Nat := highNibble a + highNibble m + if lowSum a m c > 9 then 1 else 0

/-- The correction of a nibble's sum. -/
def correctedSum (n : Nat) : Nat := if n > 9 then n + 6 else n

/-- The difference of the low nibbles and the borrow. -/
def lowDiff : Int := lowNibble a - lowNibble m - (1 - c.toNat)

/-- The difference of the high nibbles and the low nibble's borrow. -/
def highDiff : Int := highNibble a - highNibble m - if lowDiff a m c < 0 then 1 else 0

/-- The correction of a nibble's difference. -/
def correctedDiff (n : Int) : Int := if n < 0 then n - 6 else n

theorem addDec_r : (addDec a m c).r.toNat =
    correctedSum (highSum a m c) % 16 * 16 + correctedSum (lowSum a m c) % 16 := by
  have hr : (addDec a m c).r =
    BitVec.ofNat 8 (correctedSum (highSum a m c) % 16 * 16 + correctedSum (lowSum a m c) % 16) := rfl
  rw [hr, BitVec.toNat_ofNat]
  omega

theorem addDec_c : (addDec a m c).c = true ↔ correctedSum (highSum a m c) > 15 := decide_eq_true_iff

theorem subDec_r : ((subDec a m c).r.toNat : Int) =
    correctedDiff (highDiff a m c) % 16 * 16 + correctedDiff (lowDiff a m c) % 16 := by
  have hr : (subDec a m c).r =
    BitVec.ofInt 8 (correctedDiff (highDiff a m c) % 16 * 16 + correctedDiff (lowDiff a m c) % 16) := rfl
  rw [hr, BitVec.toNat_ofInt]
  omega

theorem subDec_c : (subDec a m c).c = true ↔ highDiff a m c ≥ 0 := decide_eq_true_iff

/-- The nibbles borrow past the high one exactly where the bytes borrow. -/
theorem subDec_c_eq_subBin_c : (subDec a m c).c = (subBin a m c).c := by
  have hc : (subBin a m c).c = true ↔ (a.toNat : Int) - m.toNat - (1 - c.toNat) ≥ 0 := decide_eq_true_iff
  have hborrow := c.toNat_le
  rw [Bool.eq_iff_iff, subDec_c, hc]
  simp only [highDiff, lowDiff, lowNibble, highNibble]
  omega

/-- On a sum of two digits and a carry, adding 6 past 9 turns the remainder modulo 16 into the one modulo 10. -/
theorem correctedSum_mod {n : Nat} (h : n ≤ 19) : correctedSum n % 16 = n % 10 := by
  unfold correctedSum
  split <;> omega

theorem correctedSum_gt (n : Nat) : correctedSum n > 15 ↔ n > 9 := by
  unfold correctedSum
  split <;> omega

/-- On a difference of two digits and a borrow, subtracting 6 below 0 turns the remainder modulo 16 into the one modulo 10. -/
theorem correctedDiff_mod {n : Int} (hlow : -10 ≤ n) (hhigh : n ≤ 9) : correctedDiff n % 16 = n % 10 := by
  unfold correctedDiff
  split <;> omega

end

section
open Certificates
variable {a m : Byte} {c : Bool}

/-- Of two digits and a carry the low sum passes 9 where it counts one ten. -/
theorem highSum_of_isBcd (ha : isBcd a) (hm : isBcd m) :
    highSum a m c = highNibble a + highNibble m + lowSum a m c / 10 ∧ lowSum a m c ≤ 19 := by
  have hc := c.toNat_le
  have hle : lowSum a m c ≤ 19 := Nat.add_le_add (Nat.add_le_add ha.2 hm.2) hc
  refine ⟨?_, hle⟩
  unfold highSum
  split <;> omega

/-- Of two digits and a borrow the low difference passes below 0 where it counts minus one ten. -/
theorem highDiff_of_isBcd (ha : isBcd a) (hm : isBcd m) :
    highDiff a m c = highNibble a - highNibble m + lowDiff a m c / 10 ∧ -10 ≤ lowDiff a m c ∧ lowDiff a m c ≤ 9 := by
  obtain ⟨-, halow⟩ := ha
  obtain ⟨-, hmlow⟩ := hm
  have hc := c.toNat_le
  have hle : -10 ≤ lowDiff a m c ∧ lowDiff a m c ≤ 9 := by
    simp only [lowDiff, lowNibble]
    omega
  refine ⟨?_, hle⟩
  unfold highDiff
  split <;> omega

theorem dec_add_dec (a m : Byte) (c : Bool) : dec a + dec m + c.toNat = 10 * (highNibble a + highNibble m) + lowSum a m c := by
  simp only [dec, lowSum, lowNibble, highNibble]
  omega

theorem dec_sub_dec (a m : Byte) (c : Bool) :
    (dec a : Int) - dec m - (1 - c.toNat) = 10 * (highNibble a - highNibble m) + lowDiff a m c := by
  simp only [dec, lowDiff, lowNibble, highNibble]
  omega

/-- A byte is given by its digits. -/
theorem dec_of_digits {v : Byte} {hi lo : Nat} (hv : v.toNat = hi * 16 + lo) (hhi : hi ≤ 9) (hlo : lo ≤ 9) :
    dec v = 10 * hi + lo ∧ isBcd v := by
  simp only [dec, isBcd]
  omega

/-- The decimal sum of digits, modulo 100, with its carry. -/
theorem addDec_of_isBcd (ha : isBcd a) (hm : isBcd m) :
    dec (addDec a m c).r = (dec a + dec m + c.toNat) % 100 ∧ isBcd (addDec a m c).r ∧
    ((addDec a m c).c = true ↔ dec a + dec m + c.toNat ≥ 100) := by
  obtain ⟨hhigh, hlow⟩ := highSum_of_isBcd (c := c) ha hm
  have hhighLe : highSum a m c ≤ 19 := by
    have hdigits : highNibble a + highNibble m ≤ 9 + 9 := Nat.add_le_add ha.1 hm.1
    omega
  have hr := addDec_r a m c
  rw [correctedSum_mod hlow, correctedSum_mod hhighLe] at hr
  obtain ⟨hdec, hbcd⟩ := dec_of_digits hr (by omega) (by omega)
  rw [addDec_c, correctedSum_gt, hdec, dec_add_dec]
  refine ⟨?_, hbcd, ?_⟩ <;> omega

/-- The decimal difference of digits, modulo 100, with its borrow. -/
theorem subDec_of_isBcd (ha : isBcd a) (hm : isBcd m) :
    (dec (subDec a m c).r : Int) = ((dec a : Int) - dec m - (1 - c.toNat)) % 100 ∧ isBcd (subDec a m c).r ∧
    ((subDec a m c).c = true ↔ (dec a : Int) - dec m - (1 - c.toNat) ≥ 0) := by
  obtain ⟨hhigh, hlowGe, hlowLe⟩ := highDiff_of_isBcd (c := c) ha hm
  have ha9 : highNibble a ≤ 9 := ha.1
  have hm9 : highNibble m ≤ 9 := hm.1
  have hr := subDec_r a m c
  rw [correctedDiff_mod hlowGe hlowLe, correctedDiff_mod (n := highDiff a m c) (by omega) (by omega)] at hr
  have hdigits : (subDec a m c).r.toNat = (highDiff a m c % 10).toNat * 16 + (lowDiff a m c % 10).toNat := by omega
  obtain ⟨hdec, hbcd⟩ := dec_of_digits hdigits (by omega) (by omega)
  rw [subDec_c, hdec, dec_sub_dec]
  refine ⟨?_, hbcd, ?_⟩ <;> omega

end

/-! ## The flags of a compare (R156 to R158) -/

theorem Flags.compare_eq_compareFlags (p : Flags) (r m : Byte) : p.compare r m = Certificates.compareFlags p r m := by
  have hz : (r - m == 0#8) = decide (r = m) := by
    rw [Bool.eq_iff_iff, beq_iff_eq, decide_eq_true_iff, BitVec.sub_eq_iff_eq_add, BitVec.zero_add]
  ext1
  case z => exact hz
  all_goals rfl

/-! ## Adding and subtracting one (R159 to R164) -/

theorem add_one_eq_ofNat (v : Byte) : v + 1 = BitVec.ofNat 8 (v.toNat + 1) := rfl

theorem sub_one_eq_ofNat (v : Byte) : v - 1 = BitVec.ofNat 8 (v.toNat + 255) := by
  rw [Nat.add_comm]
  rfl

/-! ## The routed operands and result (R128, R129) -/

section
variable {s : State}

@[simp] theorem State.setA_peek (v : Byte) (b : Addr) : (s.setA v).peek b = s.peek b := rfl

@[simp] theorem State.setFlags_peek (q : Flags) (b : Addr) : (s.setFlags q).peek b = s.peek b := rfl

theorem State.routedOperands_of_clear (f : Source) (ht : s.p.t = false) :
    s.routedOperands f = ((s.a, (s.load f).1), (s.load f).2) := by
  have hread := State.readDest_of_clear (s := (s.load f).2) (by simp [ht])
  simp only [State.routedOperands, hread, State.load_snd_a]

theorem State.routedOperands_of_set (f : Source) (ht : s.p.t = true) :
    s.routedOperands f = (((s.load f).2.busValue (zeroPage s.x), (s.load f).1), ((s.load f).2.read8 (zeroPage s.x)).2) := by
  have hread := State.readDest_of_set (s := (s.load f).2) (by simp [ht])
  simp only [State.routedOperands, hread, State.load_snd_x, State.read8_fst]

/-- A write stores its byte where plain RAM takes it (R51). -/
theorem State.write8_storesAt (a : Addr) (v : Byte) (hw : Memory.wf s.mem = true) :
    Certificates.StoresAt s (s.write8 a v) a v := by
  intro b
  by_cases hb : b = a
  · subst hb
    by_cases hram : s.kindAt b = .ram
    · simp [hram, State.write8_peek_same v hw hram]
    · simp [hram, State.peek, State.write8_mem_of_not_ram v hram]
  · simp [hb, s.write8_peek_other v hb]

/-- A store after reads alone is a store. -/
theorem State.ReadsOnly.storesAt {t u : State} {a : Addr} {v : Byte} (h : s.ReadsOnly t)
    (ht : Certificates.StoresAt t u a v) : Certificates.StoresAt s u a v := by
  intro b
  rw [ht b, h.busOnly.kindAt_eq a, h.peek_eq b]

/-- The frame of an instruction that uses the bus and then writes flags. -/
theorem State.BusOnly.setFlags_eq {t : State} (h : s.BusOnly t) (q : Flags) :
    t.setFlags q = { s with p := q, mem := t.mem, trace := t.trace, busTick := t.busTick } := by
  obtain ⟨_, _, _, rfl⟩ := h
  rfl

/-- The state in which a routed instruction ends: its result is written, then its flags. -/
def State.routedWrite (s : State) (f : Source) (result : Byte → Byte → Byte) (flags : Byte → Byte → Flags) : State :=
  ((s.routedOperands f).2.writeDest (result (s.routedOperands f).1.1 (s.routedOperands f).1.2)).setFlags
    (flags (s.routedOperands f).1.1 (s.routedOperands f).1.2)

/-- The state in which a routed instruction ends that writes flags alone. -/
def State.routedFlags (s : State) (f : Source) (flags : Byte → Byte → Flags) : State :=
  (s.routedOperands f).2.setFlags (flags (s.routedOperands f).1.1 (s.routedOperands f).1.2)

theorem State.routedWrite_effect (f : Source) (result : Byte → Byte → Byte) (flags : Byte → Byte → Flags)
    (hw : Memory.wf s.mem = true) : Certificates.RoutedEffect s (s.routedWrite f result flags) f true result flags := by
  have hload := s.load_readsOnly f
  cases ht : s.p.t with
  | false =>
    rw [State.routedWrite, State.routedOperands_of_clear f ht, State.writeDest_of_clear _ (by simp [ht])]
    refine ⟨by simp [ht], by simp [ht], by simp [ht], by simp [ht], by simp [ht], ?_⟩
    ext1 <;> simp
  | true =>
    have hread := hload.trans (State.read8_readsOnly _ (zeroPage s.x))
    have hanswers := hload.answers (State.read8_answers _ (zeroPage s.x))
    have hstores (v : Byte) := hread.storesAt (State.write8_storesAt (zeroPage s.x) v (hread.wf hw))
    have hbus (v : Byte) := hread.busOnly.trans (State.write8_busOnly _ (zeroPage s.x) v)
    rw [State.routedWrite, State.routedOperands_of_set f ht, State.writeDest_of_set _ (by simp [ht])]
    refine ⟨by simp [ht], by simp [ht], by simp [ht], fun b => ?_, fun _ => ?_, ?_⟩
    · simpa [ht] using hstores _ b
    · simpa [ht] using hanswers
    · simpa using (hbus _).setFlags_eq _

theorem State.routedFlags_effect (f : Source) (result : Byte → Byte → Byte) (flags : Byte → Byte → Flags) :
    Certificates.RoutedEffect s (s.routedFlags f flags) f false result flags := by
  have hload := s.load_readsOnly f
  cases ht : s.p.t with
  | false =>
    rw [State.routedFlags, State.routedOperands_of_clear f ht]
    refine ⟨by simp [ht], by simp, by simp [ht], by simp, by simp [ht], ?_⟩
    simpa using hload.busOnly.setFlags_eq _
  | true =>
    have hread := hload.trans (State.read8_readsOnly _ (zeroPage s.x))
    have hanswers := hload.answers (State.read8_answers _ (zeroPage s.x))
    rw [State.routedFlags, State.routedOperands_of_set f ht]
    refine ⟨by simp [ht], by simp, by simp [ht], by simp, fun _ => ?_, ?_⟩
    · simpa [ht] using hanswers
    · simpa using hread.busOnly.setFlags_eq _

/-! ## Modify (R127) -/

/-- Modify, then a write of flags that the byte read gives. -/
theorem State.modify_effect (f : Target) (g : Byte → Byte) (flags : Byte → Flags) (hw : Memory.wf s.mem = true) :
    Certificates.ModifyEffect s ((s.modify f g).2.setFlags (flags (s.modify f g).1)) f g flags := by
  cases f with
  | acc => rfl
  | mem f =>
    have hload := s.loadMem_readsOnly f
    have hanswers := (s.effectiveAddress_readsOnly f).answers (State.read8_answers _ (s.effectiveAddress f).1)
    have hstores := hload.storesAt (State.write8_storesAt (s.effectiveAddress f).1 (g (s.loadMem f).1) (hload.wf hw))
    have hbus := hload.busOnly.trans (State.write8_busOnly _ (s.effectiveAddress f).1 (g (s.loadMem f).1))
    rw [s.modify_mem_eq]
    refine ⟨(s.loadMem f).1, hanswers, rfl, ?_, hstores, hbus.setFlags_eq _⟩
    simp [s.loadMem_eq]

@[simp] theorem State.modify_snd_p (s : State) (f : Target) (g : Byte → Byte) : (s.modify f g).2.p = s.p := by
  rcases s.modify_snd f g with h | h
  · rw [h, State.setA_p]
  · exact h.p_eq

/-- Modify with N and Z of the result (R159, R160). -/
theorem State.modifyNZ_effect (f : Target) (g : Byte → Byte) (hw : Memory.wf s.mem = true) :
    Certificates.ModifyEffect s (s.modifyNZ f g) f g (fun v => Certificates.nzFlags s.p (g v)) := by
  have hend : s.modifyNZ f g = (s.modify f g).2.setFlags (Certificates.nzFlags s.p (g (s.modify f g).1)) := by
    rw [← s.modify_snd_p f g]
    rfl
  rw [hend]
  exact State.modify_effect f g (fun v => Certificates.nzFlags s.p (g v)) hw

/-! ## The meanings, as the shared operations -/

theorem exec_adc_eq_routedWrite (f : Source) : exec (.adc f) s =
    .next (s.routedWrite f (fun a m => (Certificates.adcOf s a m).r)
      (fun a m => Certificates.aluFlags s.p (Certificates.adcOf s a m))) := by
  have hp := (s.routedOperands_readsOnly f).busOnly.p_eq
  simp only [exec_adc_eq, State.addWith, hp]
  rfl

theorem exec_sbc_eq_routedWrite (f : Source) : exec (.sbc f) s =
    .next (s.routedWrite f (fun a m => (Certificates.sbcOf s a m).r)
      (fun a m => Certificates.aluFlags s.p (Certificates.sbcOf s a m))) := by
  have hp := (s.routedOperands_readsOnly f).busOnly.p_eq
  simp only [exec_sbc_eq, State.subWith, hp]
  rfl

theorem exec_cmp_eq_routedFlags (f : Source) : exec (.cmp f) s = .next (s.routedFlags f (Certificates.compareFlags s.p)) := by
  have hp := (s.routedOperands_readsOnly f).busOnly.p_eq
  simp only [exec_cmp_eq, hp, Flags.compare_eq_compareFlags]
  rfl

theorem State.compareWith_eq (r : Byte) (f : Source) :
    s.compareWith r f = { (s.load f).2 with p := Certificates.compareFlags s.p r (s.load f).1 } := by
  have hp := (s.load_readsOnly f).busOnly.p_eq
  simp only [State.compareWith, Flags.compare_eq_compareFlags, hp]
  rfl

end

end Sys2Proof.Machine

namespace Sys2Proof.Certificates

/-- Settles O24: the sum's equation gives the result and the carry, and the signed readings of its three bytes give V. -/
theorem addBinIsTheExactSum : Obligations.AddBinIsTheExactSum :=
  fun a m c => ⟨addBin_sum a m c, beq_iff_eq, rfl, addBin_overflow a m c, addBin_v_eq_bit a m c⟩

/-- Settles O25: a subtract is the add of the complement, so each clause is the sum's. -/
theorem subBinIsTheExactDifference : Obligations.SubBinIsTheExactDifference :=
  fun a m c => ⟨subBin_difference a m c, beq_iff_eq, rfl, subBin_overflow a m c, subBin_v_eq_bit a m c⟩

/-- Settles O26: the digits of the result are the remainders modulo 10, and its flags N, Z and V are those of the binary result. -/
theorem decimalArithmeticOnBcdOperands : Obligations.DecimalArithmeticOnBcdOperands := by
  intro a m c ha hm
  obtain ⟨hadd, haddBcd, haddCarry⟩ := addDec_of_isBcd (c := c) ha hm
  obtain ⟨hsub, hsubBcd, hsubCarry⟩ := subDec_of_isBcd (c := c) ha hm
  exact ⟨⟨hadd, haddBcd, haddCarry, rfl, rfl, rfl⟩, ⟨hsub, hsubBcd, hsubCarry, rfl, rfl, rfl⟩⟩

/-- Settles O27: the result byte is the two corrected nibbles. -/
theorem decimalArithmeticOnEveryByte : Obligations.DecimalArithmeticOnEveryByte := by
  refine ⟨fun a m c => ?_, fun a m c => ?_, rfl, rfl, rfl⟩
  · have hr := addDec_r a m c
    have hlow : (addDec a m c).r.toNat % 16 = correctedSum (lowSum a m c) % 16 := by omega
    have hhigh : (addDec a m c).r.toNat / 16 = correctedSum (highSum a m c) % 16 := by omega
    exact ⟨hlow, hhigh, addDec_c a m c, rfl, rfl, rfl⟩
  · have hr := subDec_r a m c
    have hlow : ((subDec a m c).r.toNat % 16 : Int) = correctedDiff (lowDiff a m c) % 16 := by omega
    have hhigh : ((subDec a m c).r.toNat / 16 : Int) = correctedDiff (highDiff a m c) % 16 := by omega
    exact ⟨hlow, hhigh, subDec_c a m c, rfl, rfl, rfl, subDec_c_eq_subBin_c a m c⟩

/-- Settles O30: both write the routed result and the four flags of their arithmetic, which is taken with D and C as they were. -/
theorem adcAndSbcResults : Obligations.AdcAndSbcResults :=
  fun f _ hw => ⟨⟨_, exec_adc_eq_routedWrite f, State.routedWrite_effect f _ _ hw⟩,
    ⟨_, exec_sbc_eq_routedWrite f, State.routedWrite_effect f _ _ hw⟩⟩

/-- Settles O32: CMP writes flags of the routed operands, CPX and CPY flags of their register and the operand. -/
theorem compareResults : Obligations.CompareResults :=
  fun f s => ⟨⟨_, exec_cmp_eq_routedFlags f, State.routedFlags_effect f _ _⟩,
    congrArg _ (State.compareWith_eq s.x f), congrArg _ (State.compareWith_eq s.y f)⟩

/-- Settles O33: both are Modify with N and Z of the result. -/
theorem incAndDecResults : Obligations.IncAndDecResults := by
  intro f s hw
  simp only [← add_one_eq_ofNat, ← sub_one_eq_ofNat]
  exact ⟨⟨_, rfl, State.modifyNZ_effect f _ hw⟩, ⟨_, rfl, State.modifyNZ_effect f _ hw⟩⟩

/-- Settles O43: the operations are register writes and SetNZ, with the sum and the difference modulo 256. -/
theorem registerInstructionResults : Obligations.RegisterInstructionResults := by
  refine ⟨rfl, fun s => ?_⟩
  simp only [← add_one_eq_ofNat, ← sub_one_eq_ofNat]
  exact ⟨rfl, rfl, rfl, rfl, rfl, rfl, rfl, rfl, rfl, rfl⟩

end Sys2Proof.Certificates
end

section
/-! The logic and shift family (spec/42_logic_shift.md), and the nibble swap of spec/45_bit_manip.md. A shift, a rotate and the nibble
swap are each the OR of two parts of the byte that share no bit, so the OR is a sum, which gives the result as arithmetic. An
instruction's effect is that of the shared operation it runs, with its flags written out. -/

open Sys2Proof Sys2Proof.Machine

namespace Sys2Proof.Machine

/-! ## The transforms as arithmetic on the byte (R184 to R188, R264) -/

/-- The OR of a multiple of `2 ^ k` and a number below `2 ^ k` is their sum. -/
theorem or_eq_ofNat_add {x y : Byte} {k n : Nat} (hx : x.toNat = 2 ^ k * n) (hy : y.toNat < 2 ^ k) :
    x ||| y = BitVec.ofNat 8 (x.toNat + y.toNat) := by
  rw [hx, Nat.two_pow_add_eq_or_of_lt hy, ← hx, ← BitVec.toNat_or, BitVec.ofNat_toNat, BitVec.setWidth_eq]

theorem bitByte_toNat (c : Bool) : (BitVec.setWidth 8 (BitVec.ofBool c)).toNat = c.toNat := by
  cases c <;> rfl

theorem bitByte_shiftLeft_toNat (c : Bool) : (BitVec.setWidth 8 (BitVec.ofBool c) <<< 7).toNat = 128 * c.toNat := by
  cases c <;> rfl

theorem shiftLeft_toNat_eq (v : Byte) (k : Nat) (hk : k ≤ 8) : (v <<< k).toNat = 2 ^ k * (v.toNat % 2 ^ (8 - k)) := by
  rw [BitVec.toNat_shiftLeft, Nat.shiftLeft_eq, Nat.mul_comm, ← Nat.mul_mod_mul_left, ← Nat.pow_add, Nat.add_sub_cancel' hk]

theorem shiftRight_toNat_eq (v : Byte) (k : Nat) : (v >>> k).toNat = v.toNat / 2 ^ k :=
  (BitVec.toNat_ushiftRight v k).trans (Nat.shiftRight_eq_div_pow v.toNat k)

/-- Bit 7 leaves the byte: the doubled byte is meant modulo 256 (R184, R186). -/
theorem shiftLeft_eq_ofNat (v : Byte) (low : Bool) : shiftLeft v low = BitVec.ofNat 8 (2 * v.toNat + low.toNat) := by
  have hv : (v <<< 1).toNat = 2 * (v.toNat % 128) := shiftLeft_toNat_eq v 1 (by decide)
  have hbit := bitByte_toNat low
  have hle := low.toNat_le
  rw [shiftLeft, or_eq_ofNat_add (k := 1) hv (by omega), hv, hbit]
  apply BitVec.eq_of_toNat_eq
  simp only [BitVec.toNat_ofNat]
  omega

theorem shiftRight_eq_ofNat (v : Byte) (high : Bool) :
    shiftRight v high = BitVec.ofNat 8 (v.toNat / 2 + 128 * high.toNat) := by
  have hv : (v >>> 1).toNat = v.toNat / 2 := shiftRight_toNat_eq v 1
  have hlt := v.isLt
  rw [shiftRight, BitVec.or_comm, or_eq_ofNat_add (k := 7) (bitByte_shiftLeft_toNat high) (by omega), hv,
    bitByte_shiftLeft_toNat, Nat.add_comm]

theorem swapNibbles_eq_ofNat (v : Byte) : swapNibbles v = BitVec.ofNat 8 (16 * (v.toNat % 16) + v.toNat / 16) := by
  have hhigh : (v <<< 4).toNat = 16 * (v.toNat % 16) := shiftLeft_toNat_eq v 4 (by decide)
  have hlow : (v >>> 4).toNat = v.toNat / 16 := shiftRight_toNat_eq v 4
  have hlt := v.isLt
  rw [swapNibbles, or_eq_ofNat_add (k := 4) hhigh (by omega), hhigh, hlow]

theorem not_eq_ofNat (v : Byte) : ~~~v = BitVec.ofNat 8 (255 - v.toNat) := by
  apply BitVec.eq_of_toNat_eq
  rw [BitVec.toNat_not, BitVec.toNat_ofNat]
  omega

/-- The bit a right shift puts into C. -/
theorem getLsbD_zero_eq_decide (v : Byte) : v.getLsbD 0 = decide (v.toNat % 2 = 1) := Nat.testBit_zero v.toNat

/-! ## The shared operations: the routed result with N and Z (R180 to R182, R200), a shift (R184 to R187), Modify with no flag -/

theorem Flags.setNZ_eq_nzFlags (q : Flags) (v : Byte) : q.setNZ v = Certificates.nzFlags q v := rfl

section
variable {s : State}

@[simp] theorem State.writeDest_p (s : State) (r : Byte) : (s.writeDest r).p = s.p := by
  cases ht : s.p.t with
  | false => rw [State.writeDest_of_clear r ht, State.setA_p]
  | true => rw [State.writeDest_of_set r ht, State.write8_p]

theorem State.routedNZ_eq_routedWrite (f : Source) (op : Byte → Byte → Byte) :
    s.routedNZ f op = s.routedWrite f op fun a m => Certificates.nzFlags s.p (op a m) := by
  simp only [State.routedNZ_eq, State.setNZ_eq, Flags.setNZ_eq_nzFlags, State.writeDest_p, State.routedOperands_snd_p]
  rfl

theorem State.routedNZ_effect (f : Source) (op : Byte → Byte → Byte) (hw : Memory.wf s.mem = true) :
    Certificates.RoutedEffect s (s.routedNZ f op) f true op (fun a m => Certificates.nzFlags s.p (op a m)) := by
  rw [State.routedNZ_eq_routedWrite]
  exact State.routedWrite_effect f op _ hw

theorem State.shift_eq (f : Target) (g : Byte → Byte) (out : Nat) :
    let v := (s.modify f g).1
    s.shift f g out = (s.modify f g).2.setFlags { Certificates.nzFlags s.p (g v) with c := v.getLsbD out } := by
  rw [← s.modify_snd_p f g]
  rfl

/-- A shift, with its result and the bit that leaves the byte written as the functions `h` and `leaves` of the byte. -/
theorem State.shift_effect {g h : Byte → Byte} {out : Nat} {leaves : Byte → Bool} (f : Target) (hg : ∀ v, g v = h v)
    (hout : ∀ v, v.getLsbD out = leaves v) (hw : Memory.wf s.mem = true) :
    Certificates.ModifyEffect s (s.shift f g out) f h
      (fun v => { Certificates.nzFlags s.p (h v) with c := leaves v }) := by
  obtain rfl := funext hg
  obtain rfl := funext hout
  rw [State.shift_eq]
  exact State.modify_effect f g (fun v => { Certificates.nzFlags s.p (g v) with c := v.getLsbD out }) hw

/-- Modify alone writes no flag (R260, R261, R264). -/
theorem State.modify_snd_effect (f : Target) (g : Byte → Byte) (hw : Memory.wf s.mem = true) :
    Certificates.ModifyEffect s (s.modify f g).2 f g (fun _ => s.p) := by
  have hend : (s.modify f g).2.setFlags s.p = (s.modify f g).2 := by
    rw [← s.modify_snd_p f g]
    rfl
  rw [← hend]
  exact State.modify_effect f g (fun _ => s.p) hw

/-! ## The tests (R183, R189) -/

theorem exec_bit_eq (f : MemForm) : exec (.bit f) s = .next ((s.loadMem f).2.setFlags { s.p with
    z := decide (s.a &&& (s.loadMem f).1 = 0#8), n := (s.loadMem f).1.getLsbD 7, v := (s.loadMem f).1.getLsbD 6 }) := by
  rw [← s.loadMem_snd_p f, ← s.loadMem_snd_a f]
  rfl

theorem exec_tst_eq (zz : Byte) : exec (.tst zz) s =
    .next ((s.read8 (zeroPage zz)).2.setFlags (Certificates.nzFlags s.p (s.read8 (zeroPage zz)).1)) := rfl

end

end Sys2Proof.Machine

namespace Sys2Proof.Certificates

/-- Settles O31: each writes the routed result, with N and Z of it. -/
theorem logicAndLdaResults : Obligations.LogicAndLdaResults :=
  fun f _ hw => ⟨⟨_, rfl, State.routedNZ_effect f _ hw⟩, ⟨_, rfl, State.routedNZ_effect f _ hw⟩,
    ⟨_, rfl, State.routedNZ_effect f _ hw⟩, ⟨_, rfl, State.routedNZ_effect f _ hw⟩⟩

/-- Settles O34: the four are one operation, with the bit that enters (0, or C as it was) and the bit that leaves as arithmetic. -/
theorem shiftAndRotateResults : Obligations.ShiftAndRotateResults :=
  fun f s hw => ⟨⟨_, rfl, State.shift_effect f (shiftLeft_eq_ofNat · false) bit7_eq_decide hw⟩,
    ⟨_, rfl, State.shift_effect f (shiftRight_eq_ofNat · false) getLsbD_zero_eq_decide hw⟩,
    ⟨_, rfl, State.shift_effect f (shiftLeft_eq_ofNat · s.p.c) bit7_eq_decide hw⟩,
    ⟨_, rfl, State.shift_effect f (shiftRight_eq_ofNat · s.p.c) getLsbD_zero_eq_decide hw⟩⟩

/-- Settles O35: both are Modify of the zero-page byte, COM with N and Z of the result and RRF with no flag. -/
theorem complementAndNibbleSwapResults : Obligations.ComplementAndNibbleSwapResults := by
  intro zz s hw
  simp only [← not_eq_ofNat, ← swapNibbles_eq_ofNat]
  exact ⟨⟨_, rfl, State.modifyNZ_effect _ _ hw⟩, ⟨_, rfl, State.modify_snd_effect _ _ hw⟩⟩

/-- Settles O40: both are one load, which leaves A and the flags, and then a write of flags. -/
theorem bitAndTstResults : Obligations.BitAndTstResults := by
  intro f zz s
  rw [← zeroPage_eq]
  exact ⟨exec_bit_eq f, _, s.read8_answers (zeroPage zz), exec_tst_eq zz⟩

end Sys2Proof.Certificates
end

section
/-! The load, store and stack family (spec/43_load_store.md). Each instruction is one shared operation, whose whole effect is said once: a
load into an index register, a store through a memory form, a push, a pull. -/

open Sys2Proof Sys2Proof.Machine

namespace Sys2Proof.Machine

variable {s : State}

/-- The frame of an instruction that uses the bus alone. -/
theorem State.BusOnly.eq_with {t : State} (h : s.BusOnly t) :
    t = { s with mem := t.mem, trace := t.trace, busTick := t.busTick } := by
  obtain ⟨_, _, _, rfl⟩ := h
  rfl

/-- A store (R127): the pointer's reads leave memory and its map alone, so what the one write stores is stored. -/
theorem State.storeMem_effect (f : MemForm) (v : Byte) (hw : Memory.wf s.mem = true) :
    Certificates.StoreEffect s (s.storeMem f v) f v := by
  have hreads := s.effectiveAddress_readsOnly f
  have hstores := State.write8_storesAt (s.effectiveAddress f).1 v (hreads.wf hw)
  exact ⟨State.write8_trace _ _ v, hreads.storesAt hstores, (s.storeMem_busOnly f v).eq_with⟩

theorem exec_ldm_eq (v zz : Byte) : exec (.ldm v zz) s = .next (s.storeMem (.zp zz) v) := rfl

/-- A push, whole (R130). -/
theorem State.push_effect (v : Byte) (hw : Memory.wf s.mem = true) :
    let t := s.push v
    let top := join s.cfg.stackPage s.sp
    t.sp.toNat = (s.sp.toNat + 255) % 256 ∧ t.trace = s.trace ++ [.write top v] ∧ Certificates.StoresAt s t top v ∧
      t = { s with sp := t.sp, mem := t.mem, trace := t.trace, busTick := t.busTick } := by
  have hsp : (s.push v).sp.toNat = (s.sp.toNat + 255) % 256 := by
    rw [State.push_sp, sub_one_eq_ofNat, BitVec.toNat_ofNat]
  refine ⟨hsp, s.push_trace v, State.write8_storesAt _ v hw, ?_⟩
  rw [s.push_eq v]

theorem exec_ldx_eq (f : Source) :
    exec (.ldx f) s = .next { (s.load f).2 with x := (s.load f).1, p := Certificates.nzFlags s.p (s.load f).1 } := by
  rw [← s.load_snd_p f]
  rfl

theorem exec_ldy_eq (f : Source) :
    exec (.ldy f) s = .next { (s.load f).2 with y := (s.load f).1, p := Certificates.nzFlags s.p (s.load f).1 } := by
  rw [← s.load_snd_p f]
  rfl

theorem exec_pla_eq : exec .pla s =
    .next { s.pull.2 with a := s.pull.1, p := Certificates.nzFlags s.pull.2.p s.pull.1 } := rfl

theorem exec_plp_eq : exec .plp s = .next { s.pull.2 with p := unpackP s.pull.1 } := rfl

end Sys2Proof.Machine

namespace Sys2Proof.Certificates

/-- Settles O42: each is one store, LDM through the zero-page form. -/
theorem storeResults : Obligations.StoreResults :=
  fun f v zz _ hw => ⟨⟨_, rfl, State.storeMem_effect f _ hw⟩, ⟨_, rfl, State.storeMem_effect f _ hw⟩,
    ⟨_, rfl, State.storeMem_effect f _ hw⟩, ⟨_, exec_ldm_eq v zz, State.storeMem_effect (.zp zz) v hw⟩⟩

/-- Settles O45: both are one push. -/
theorem pushInstructionResults : Obligations.PushInstructionResults :=
  fun _ hw => ⟨⟨_, rfl, State.push_effect _ hw⟩, ⟨_, rfl, State.push_effect _ hw⟩⟩

/-- Settles O46: both are one pull and then a write of A or of the flags. -/
theorem pullInstructionResults : Obligations.PullInstructionResults := by
  intro s
  obtain ⟨v, hv, hpull⟩ := s.pull_eq
  refine ⟨v, hv, ?_, ?_⟩
  · rw [exec_pla_eq, hpull]
    rfl
  · rw [exec_plp_eq, hpull]
    rfl

/-- Settles O41: a load keeps the flags, so N and Z are written into those of the start. -/
theorem loadIndexResults : Obligations.LoadIndexResults :=
  fun f _ => ⟨exec_ldx_eq f, exec_ldy_eq f⟩

end Sys2Proof.Certificates
end

section
/-! The control family (spec/44_control.md). A branch is one conditional write of PC; a JMP or JSR goes to its target, whose pointer is
read first; RTS, RTI and BRK are the stack's PullPC, the return from a handler and the entry. -/

open Sys2Proof Sys2Proof.Machine

namespace Sys2Proof.Machine

variable {s : State}

/-! ## Branches (R229) -/

theorem add_sext16_eq_ofInt (w : Addr) (rel : Byte) : w + sext16 rel = BitVec.ofInt 16 ((w.toNat : Int) + rel.toInt) := by
  rw [BitVec.ofInt_add, BitVec.ofInt_natCast, BitVec.ofNat_toNat, BitVec.setWidth_eq]
  rfl

theorem State.branch_eq (cond : Bool) (rel : Byte) : s.branch cond rel =
    { s with pc := if cond then BitVec.ofInt 16 ((s.pc.toNat : Int) + rel.toInt) else s.pc } := by
  rw [← add_sext16_eq_ofInt]
  cases cond <;> rfl

/-- The branch on a clear flag. -/
theorem State.branch_not_eq (cond : Bool) (rel : Byte) : s.branch (!cond) rel =
    { s with pc := if cond then s.pc else BitVec.ofInt 16 ((s.pc.toNat : Int) + rel.toInt) } := by
  rw [State.branch_eq]
  cases cond <;> rfl

/-! ## Addresses by their bytes -/

theorem highByte_toNat (w : Addr) : (highByte w).toNat = w.toNat / 256 := by
  have hbytes := join_toNat (highByte w) (lowByte w)
  rw [join_highByte_lowByte] at hbytes
  omega

theorem lowByte_toNat (w : Addr) : (lowByte w).toNat = w.toNat % 256 := by
  have hbytes := join_toNat (highByte w) (lowByte w)
  rw [join_highByte_lowByte] at hbytes
  omega

theorem join_add_one (hi lo : Byte) : join hi lo + 1 = BitVec.ofNat 16 (256 * hi.toNat + lo.toNat + 1) := by
  rw [← join_toNat]
  rfl

/-- Where an absolute indirect pointer has its high byte (R126). -/
theorem State.indirectHigh_eq (pointer : Addr) : s.indirectHigh pointer =
    BitVec.ofNat 16 (if s.cfg.jmpIndirectPageWrap then pointer.toNat / 256 * 256 + (pointer.toNat + 1) % 256
      else pointer.toNat + 1) := by
  apply BitVec.eq_of_toNat_eq
  unfold State.indirectHigh
  split
  · rw [join_toNat, highByte_toNat, add_one_eq_ofNat, BitVec.toNat_ofNat, lowByte_toNat, BitVec.toNat_ofNat]
    omega
  · rfl

/-! ## Calls and returns -/

theorem exec_jmp_eq (f : JmpTarget) : exec (.jmp f) s = .next ((s.jmpTarget f).2.setPC (s.jmpTarget f).1) := rfl

/-- A call from a state that has read its target: the address of the instruction's last byte is pushed (R241). -/
def State.call (s : State) (target : Addr) : State := (s.pushPC (s.pc - 1)).setPC target

/-- A call, but for memory. -/
theorem State.call_eq (s : State) (target : Addr) : s.call target = { s with
    pc := target, sp := s.sp - 2, mem := (s.call target).mem
    trace := s.trace ++ [.write (join s.cfg.stackPage s.sp) (highByte (s.pc - 1)),
      .write (join s.cfg.stackPage (s.sp - 1)) (lowByte (s.pc - 1))]
    busTick := s.busTick + 2 } :=
  congrArg (State.setPC · target) (s.pushPC_eq (s.pc - 1))

theorem exec_jsr_eq (f : JsrTarget) : exec (.jsr f) s = .next ((s.jsrTarget f).2.call (s.jsrTarget f).1) := rfl

/-- The call after the reads of its pointer, seen from before them (R241 to R243). -/
theorem State.ReadsOnly.call_effect {u : State} {reads : List BusAccess} (h : s.ReadsOnly u) (htrace : u.trace = s.trace ++ reads)
    (target : Addr) (hw : Memory.wf s.mem = true) :
    let t := u.call target
    let at0 := join s.cfg.stackPage s.sp
    let at1 := join s.cfg.stackPage (s.sp - 1)
    t.trace = s.trace ++ reads ++ [.write at0 (highByte (s.pc - 1)), .write at1 (lowByte (s.pc - 1))] ∧
      t.sp = s.sp - 2 ∧ (∀ b, b ≠ at0 → b ≠ at1 → t.peek b = s.peek b) ∧
      (s.kindAt at0 = .ram → t.peek at0 = highByte (s.pc - 1)) ∧ (s.kindAt at1 = .ram → t.peek at1 = lowByte (s.pc - 1)) ∧
      t = { s with pc := t.pc, sp := t.sp, mem := t.mem, trace := t.trace, busTick := t.busTick } := by
  have hcall := u.call_eq target
  obtain ⟨tr, n, rfl⟩ := h
  obtain rfl : tr = s.trace ++ reads := htrace
  refine ⟨congrArg State.trace hcall, congrArg State.sp hcall, fun _ h0 h1 => State.pushPC_peek_other _ _ h0 h1,
    fun h0 => State.pushPC_peek_high _ hw h0, fun h1 => State.pushPC_peek_low _ hw h1, ?_⟩
  rw [hcall]

theorem exec_rts_eq : exec .rts s = .next (s.pullPC.2.setPC (s.pullPC.1 + 1)) := rfl

end Sys2Proof.Machine

namespace Sys2Proof.Certificates

theorem Answers.eq_peek_of_ram {s : State} {a : Addr} {v : Byte} (h : Answers s a v) (hram : s.kindAt a = .ram) : v = s.peek a :=
  h (by rw [hram]; decide)

/-- Settles O39: the nine are one primitive, on a flag set, on a flag clear, or always. -/
theorem branchResults : Obligations.BranchResults :=
  fun rel s =>
    have hset (flag : Bool) := congrArg Host.Outcome.next (s.branch_eq flag rel)
    have hclear (flag : Bool) := congrArg Host.Outcome.next (s.branch_not_eq flag rel)
    ⟨hclear s.p.n, hset s.p.n, hclear s.p.v, hset s.p.v, hclear s.p.c, hset s.p.c, hclear s.p.z, hset s.p.z, hset true⟩

/-- Settles O47: the target is given, or it is the pointer's two bytes. -/
theorem jmpResults : Obligations.JmpResults := by
  intro s hhll zz
  refine ⟨rfl, ?_, ?_⟩
  · obtain ⟨lo, hi, hlo, hhi, hread⟩ := s.read16zp_answers zz
    refine ⟨lo, hi, hlo, hhi, ?_⟩
    rw [exec_jmp_eq, State.jmpTarget, hread]
    rfl
  · obtain ⟨lo, hi, hlo, hhi, hread⟩ := s.readIndirect_eq hhll
    rw [State.indirectHigh_eq] at hhi hread
    refine ⟨lo, hi, hlo, hhi, ?_⟩
    rw [exec_jmp_eq, State.jmpTarget, hread]
    rfl

/-- Settles O48: each form finds its target by reads alone, and then calls it. -/
theorem jsrResults : Obligations.JsrResults := by
  intro f s hw
  have hcall {reads} := (s.jsrTarget_readsOnly f).call_effect (reads := reads) (target := (s.jsrTarget f).1) (hw := hw)
  cases f with
  | abs hhll => exact ⟨_, [], exec_jsr_eq _, ⟨rfl, rfl⟩, hcall (List.append_nil _).symm⟩
  | sp zz => exact ⟨_, [], exec_jsr_eq _, ⟨join_toNat _ zz, rfl⟩, hcall (List.append_nil _).symm⟩
  | zpi zz =>
    obtain ⟨lo, hi, hlo, hhi, hread⟩ := s.read16zp_answers zz
    exact ⟨_, _, exec_jsr_eq _, ⟨lo, hi, hlo, hhi, congrArg Prod.fst hread, rfl⟩,
      hcall (congrArg (fun r : Addr × State => r.2.trace) hread)⟩

/-- Settles O49: RTS is PullPC and a step of one. -/
theorem rtsResult : Obligations.RtsResult := by
  intro s
  obtain ⟨lo, hi, hlo, hhi, hpull⟩ := s.pullPC_eq
  refine ⟨lo, hi, hlo, hhi, ?_⟩
  rw [exec_rts_eq, hpull, join_add_one]
  rfl

/-- Settles O50: RTI is the return from a handler. -/
theorem rtiResult : Obligations.RtiResult := by
  intro s
  obtain ⟨v, lo, hi, hv, hlo, hhi, hreturn⟩ := s.returnFromInterrupt_eq
  exact ⟨v, lo, hi, hv, hlo, hhi, congrArg Host.Outcome.next hreturn⟩

/-- Settles O51: BRK is the entry of its own source. -/
theorem brkResult : Obligations.BrkResult :=
  fun _ _ hw => ⟨_, rfl, State.entry_effect .brk hw⟩

/-- Settles O54: in plain RAM, RTS reads back the two bytes JSR pushed, the address before the next instruction. -/
theorem rtsReturnsAfterJsr : Obligations.RtsReturnsAfterJsr := by
  intro s t f hw hram0 hram1 hjsr
  obtain ⟨t', -, hjsr', -, -, hsp, -, hhigh, hlow, hframe⟩ := jsrResults f s hw
  obtain rfl : t = t' := Host.Outcome.next.inj (hjsr.symm.trans hjsr')
  obtain ⟨lo, hi, hlo, hhi, hrts⟩ := rtsResult t
  have hcfg : t.cfg = s.cfg := by rw [hframe]
  have hat1 : t.cfg.stackPage ++ (t.sp + 1) = s.cfg.stackPage ++ (s.sp - 1) := by rw [hcfg, hsp]; congr 1; bv_omega
  have hat0 : t.cfg.stackPage ++ (t.sp + 2) = s.cfg.stackPage ++ s.sp := by rw [hcfg, hsp, BitVec.sub_add_cancel]
  have hkind (a : Addr) : t.kindAt a = s.kindAt a := by rw [State.kindAt, hcfg, State.kindAt]
  rw [hat1] at hlo hrts
  rw [hat0] at hhi hrts
  have hlo' : lo = lowByte (s.pc - 1) := (hlo.eq_peek_of_ram (by rw [hkind, hram1])).trans (hlow hram1)
  have hhi' : hi = highByte (s.pc - 1) := (hhi.eq_peek_of_ram (by rw [hkind, hram0])).trans (hhigh hram0)
  refine ⟨_, hrts, ?_, ?_, ?_, ?_, ?_, ?_, fun _ => rfl⟩
  · rw [← join_add_one, hhi', hlo', join_highByte_lowByte, BitVec.sub_add_cancel]
  · rw [hsp, BitVec.sub_add_cancel]
  all_goals rw [hframe]

end Sys2Proof.Certificates
end

section
/-! The bit manipulation family (spec/45_bit_manip.md). SEB, CLB and RRF are Modify with no flag, so each is the transform of its byte: a bit
set or cleared as arithmetic, a nibble swap that is its own inverse. BBS and BBC are one load and then a branch. -/

open Sys2Proof Sys2Proof.Machine

namespace Sys2Proof.Machine

/-! ## Setting and clearing a bit as arithmetic on the byte (R260, R261) -/

section
variable {i : BitVec 3} {v : Byte}

theorem bitMask_eq_twoPow (i : BitVec 3) : bitMask i = BitVec.twoPow 8 i.toNat := (BitVec.twoPow_eq 8 i.toNat).symm

theorem bitMask_eq_ofNat (i : BitVec 3) : bitMask i = BitVec.ofNat 8 (2 ^ i.toNat) := by
  apply BitVec.eq_of_toNat_eq
  rw [bitMask_eq_twoPow, BitVec.toNat_twoPow, BitVec.toNat_ofNat]

theorem bitMask_getLsbD (i : BitVec 3) (j : Nat) : (bitMask i).getLsbD j = decide (i.toNat = j) := by
  rw [bitMask_eq_twoPow, BitVec.getLsbD_twoPow, decide_eq_true i.isLt, Bool.true_and]

theorem setBit_getLsbD (i : BitVec 3) (v : Byte) (j : Nat) :
    (setBit i v).getLsbD j = (v.getLsbD j || decide (i.toNat = j)) := by
  rw [setBit, BitVec.getLsbD_or, bitMask_getLsbD]

theorem clearBit_getLsbD (i : BitVec 3) (v : Byte) {j : Nat} (hj : j < 8) :
    (clearBit i v).getLsbD j = (v.getLsbD j && !decide (i.toNat = j)) := by
  rw [clearBit, BitVec.getLsbD_and, BitVec.getLsbD_not, bitMask_getLsbD, decide_eq_true hj, Bool.true_and]

theorem clearBit_getLsbD_self (i : BitVec 3) (v : Byte) : (clearBit i v).getLsbD i.toNat = false := by
  rw [clearBit_getLsbD i v i.isLt, decide_eq_true rfl, Bool.not_true, Bool.and_false]

theorem setBit_of_set (h : v.getLsbD i.toNat = true) : setBit i v = v := by
  apply BitVec.eq_of_getLsbD_eq
  intro j _
  rw [setBit_getLsbD]
  by_cases hij : i.toNat = j
  · simp [← hij, h]
  · simp [hij]

theorem clearBit_of_clear (h : v.getLsbD i.toNat = false) : clearBit i v = v := by
  apply BitVec.eq_of_getLsbD_eq
  intro j hj
  rw [clearBit_getLsbD i v hj]
  by_cases hij : i.toNat = j
  · simp [← hij, h]
  · simp [hij]

theorem setBit_clearBit (i : BitVec 3) (v : Byte) : setBit i (clearBit i v) = setBit i v := by
  apply BitVec.eq_of_getLsbD_eq
  intro j hj
  rw [setBit_getLsbD, clearBit_getLsbD i v hj, setBit_getLsbD]
  by_cases hij : i.toNat = j <;> simp [hij]

/-- The OR with a bit that the byte does not have carries nothing, so it is the sum. -/
theorem setBit_of_clear (h : v.getLsbD i.toNat = false) : setBit i v = v + bitMask i := by
  have hdisjoint : v &&& bitMask i = 0#8 := by
    rw [bitMask_eq_twoPow, BitVec.and_twoPow, h]
    rfl
  exact (BitVec.add_eq_or_of_and_eq_zero v (bitMask i) hdisjoint).symm

/-- A set bit is the sum of the byte without it and the bit, so clearing it subtracts. -/
theorem clearBit_of_set (h : v.getLsbD i.toNat = true) : clearBit i v = v - bitMask i := by
  rw [BitVec.eq_sub_iff_add_eq, ← setBit_of_clear (clearBit_getLsbD_self i v), setBit_clearBit, setBit_of_set h]

theorem setBit_eq_ite (i : BitVec 3) (v : Byte) :
    setBit i v = if v.getLsbD i.toNat then v else BitVec.ofNat 8 (v.toNat + 2 ^ i.toNat) := by
  split
  case isTrue h => exact setBit_of_set h
  case isFalse h =>
    rw [setBit_of_clear (Bool.eq_false_iff.mpr h), bitMask_eq_ofNat, BitVec.ofNat_add, BitVec.ofNat_toNat,
      BitVec.setWidth_eq]

theorem clearBit_eq_ite (i : BitVec 3) (v : Byte) :
    clearBit i v = if v.getLsbD i.toNat then BitVec.ofNat 8 (v.toNat - 2 ^ i.toNat) else v := by
  split
  case isTrue h =>
    have hle : 2 ^ i.toNat ≤ v.toNat := Nat.ge_two_pow_of_testBit h
    rw [clearBit_of_set h, bitMask_eq_ofNat, ← BitVec.ofNat_sub_ofNat_of_le _ _ (Nat.lt_of_le_of_lt hle v.isLt) hle,
      BitVec.ofNat_toNat, BitVec.setWidth_eq]
  case isFalse h => exact clearBit_of_clear (Bool.eq_false_iff.mpr h)

end

/-! ## The nibble swap in plain RAM (R264) -/

theorem swapNibbles_toNat (v : Byte) : (swapNibbles v).toNat = 16 * (v.toNat % 16) + v.toNat / 16 := by
  have hv := v.isLt
  rw [swapNibbles_eq_ofNat, BitVec.toNat_ofNat]
  omega

theorem swapNibbles_swapNibbles (v : Byte) : swapNibbles (swapNibbles v) = v := by
  have honce := swapNibbles_toNat v
  have htwice := swapNibbles_toNat (swapNibbles v)
  have hv := v.isLt
  apply BitVec.eq_of_toNat_eq
  omega

/-- Whatever is written over a byte, writing the byte back restores the memory. -/
theorem Memory.write_write_read {m : Memory} {a : Nat} (w : Byte) (hm : Memory.wf m = true) (ha : a < 2 ^ 16) :
    Memory.write (Memory.write m a w) a (Memory.read m a) = m := by
  have hw := Memory.write_wf (v := w) hm ha
  refine Memory.eq_of_read (Memory.write_wf hw ha) hm fun b => ?_
  by_cases hb : b = a
  · rw [hb, Memory.read_write_same hw]
  · rw [Memory.read_write_other hb, Memory.read_write_other hb]

variable {s : State}

theorem State.write8_mem_of_ram {a : Addr} (v : Byte) (h : s.kindAt a = .ram) :
    (s.write8 a v).mem = Memory.write s.mem a.toNat v := by
  simp [State.write8, h]

/-- Modify of a zero-page byte in plain RAM writes the changed byte. -/
theorem State.modify_zp_mem_of_ram {zz : Byte} (g : Byte → Byte) (h : s.kindAt (zeroPage zz) = .ram) :
    (s.modify (.mem (.zp zz)) g).2.mem = Memory.write s.mem (zeroPage zz).toNat (g (s.peek (zeroPage zz))) := by
  have hvalue : (s.loadMem (.zp zz)).1 = s.peek (zeroPage zz) := State.busValue_of_not_oracle (by rw [h]; decide)
  rw [s.modify_mem_eq, hvalue]
  exact State.write8_mem_of_ram (s := (s.loadMem (.zp zz)).2) _ h

/-- Modify twice by an involution, of a zero-page byte in plain RAM, leaves memory as it was. -/
theorem State.modify_zp_twice_mem {zz : Byte} {g : Byte → Byte} (hg : ∀ v, g (g v) = v) (hw : Memory.wf s.mem = true)
    (h : s.kindAt (zeroPage zz) = .ram) :
    ((s.modify (.mem (.zp zz)) g).2.modify (.mem (.zp zz)) g).2.mem = s.mem := by
  have honce := State.modify_zp_mem_of_ram g h
  have hpeek : (s.modify (.mem (.zp zz)) g).2.peek (zeroPage zz) = g (s.peek (zeroPage zz)) := by
    rw [State.peek, honce, Memory.read_write_same hw]
  have hkind : (s.modify (.mem (.zp zz)) g).2.kindAt (zeroPage zz) = .ram := (State.write8_kindAt _ _ _ _).trans h
  rw [State.modify_zp_mem_of_ram g hkind, hpeek, hg, honce]
  exact Memory.write_write_read _ hw (zeroPage zz).isLt

theorem exec_rrf_eq (zz : Byte) : exec (.rrf zz) s = .next (s.modify (.mem (.zp zz)) swapNibbles).2 := rfl

/-! ## The branches on a bit (R262, R263) -/

theorem exec_bbs_eq (i : BitVec 3) (f : BitTarget) (rel : Byte) : exec (.bbs i f rel) s =
    .next ((s.loadBitTarget f).2.branch ((s.loadBitTarget f).1.getLsbD i.toNat) rel) := rfl

theorem exec_bbc_eq (i : BitVec 3) (f : BitTarget) (rel : Byte) : exec (.bbc i f rel) s =
    .next ((s.loadBitTarget f).2.branch (!(s.loadBitTarget f).1.getLsbD i.toNat) rel) := rfl

end Sys2Proof.Machine

namespace Sys2Proof.Certificates

/-- Settles O36: the second RRF swaps back what the first wrote, and so writes the byte that memory held. -/
theorem nibbleSwapTwiceRestoresTheByte : Obligations.NibbleSwapTwiceRestoresTheByte := by
  intro zz s t u hw hram ht hu
  rw [← zeroPage_eq] at hram
  obtain rfl := Host.Outcome.next.inj ((exec_rrf_eq zz).symm.trans ht)
  obtain rfl := Host.Outcome.next.inj ((exec_rrf_eq zz).symm.trans hu)
  exact ⟨State.modify_zp_twice_mem swapNibbles_swapNibbles hw hram, by rw [State.modify_snd_p, State.modify_snd_p]⟩

/-- Settles O37: both are Modify with no flag, of the one bit as arithmetic. -/
theorem setAndClearBitResults : Obligations.SetAndClearBitResults := by
  intro i f s hw
  simp only [← setBit_eq_ite, ← clearBit_eq_ite]
  have hset := State.modify_snd_effect (bitOperand f) (setBit i) hw
  have hclear := State.modify_snd_effect (bitOperand f) (clearBit i) hw
  cases f <;> exact ⟨⟨_, rfl, hset⟩, ⟨_, rfl, hclear⟩⟩

/-- Settles O38: the byte is A or is read once, which leaves PC, and the branch is on its bit. -/
theorem bitBranchResults : Obligations.BitBranchResults := by
  intro i f rel s
  refine ⟨(s.loadBitTarget f).1, (s.loadBitTarget f).2, ?_, ?_, ?_⟩
  · cases f with
    | acc => exact ⟨rfl, rfl⟩
    | zp zz =>
      dsimp only
      rw [← zeroPage_eq]
      exact ⟨s.read8_answers (zeroPage zz), rfl⟩
  · rw [exec_bbs_eq, State.branch_eq, State.loadBitTarget_snd_pc]
  · rw [exec_bbc_eq, State.branch_not_eq, State.loadBitTarget_snd_pc]

end Sys2Proof.Certificates
end

section
/-! The system family (spec/46_system.md): the flag, wait and stop instructions, and the bytes of the opcode map that are not admitted.
An UNDEFINED byte with a meaning runs the form it names from the state with all its bytes fetched (`exec_undefined_eq`); a step is
refused by `exec` alone (`exec_of_step_refused`), and only a byte of the two lists of R90 decodes to an instruction that `exec` can
refuse (`decodeWith_cases`). -/

open Sys2Proof Sys2Proof.Machine

namespace Sys2Proof

/-! ## What an opcode byte decodes to, whatever bytes follow it -/

theorem instrBytes_head? (op b1 b2 : Byte) : (instrBytes op b1 b2).head? = some op := by
  have hne : opcodeLength op ≠ 0 := Nat.ne_of_gt (opcodeLength_bounds op).1
  simp [instrBytes, List.head?_take, hne]

/-- Operand bytes beyond the length of the opcode byte do not matter (R81). -/
theorem decodeWith_congr {op b1 b2 c1 c2 : Byte} (h : instrBytes op b1 b2 = instrBytes op c1 c2) :
    decodeWith op b1 b2 = decodeWith op c1 c2 := by
  have hb := decode_instrBytes op b1 b2 []
  rw [h, decode_instrBytes op c1 c2 []] at hb
  exact (DecodeResult.ok.inj hb).1.symm

/-- An opcode byte is admitted, or it is one of the two lists of R90 and decodes to itself. -/
theorem decodeWith_cases (op b1 b2 : Byte) : (decodeWith op b1 b2).admitted = true ∨
    (op ∈ undefinedBytes ∧ decodeWith op b1 b2 = .undefined op) ∨
    (op ∈ refusedBytes ∧ decodeWith op b1 b2 = .refusedOpcode op) := by
  obtain ⟨hwf, -, hencode⟩ := decodeWith_spelledBy op b1 b2
  have hhead : (encode (decodeWith op b1 b2)).head? = some op := hencode ▸ instrBytes_head? op b1 b2
  generalize decodeWith op b1 b2 = i at hwf hhead ⊢
  cases i
  case undefined op' =>
    obtain rfl : op' = op := Option.some.inj hhead
    exact .inr (.inl ⟨List.contains_iff_mem.mp hwf, rfl⟩)
  case refusedOpcode op' =>
    obtain rfl : op' = op := Option.some.inj hhead
    exact .inr (.inr ⟨List.contains_iff_mem.mp hwf, rfl⟩)
  all_goals exact .inl rfl

/-- Whether an opcode byte is admitted does not depend on the operand bytes (R88). -/
theorem decodeWith_admitted {op : Byte} (h : (decodeWith op 0#8 0#8).admitted = true) (b1 b2 : Byte) :
    (decodeWith op b1 b2).admitted = true := by
  rcases decodeWith_cases op b1 b2 with hadmitted | ⟨hop, -⟩ | ⟨hop, -⟩
  · exact hadmitted
  · rw [(undefined_decodes op hop).2] at h
    cases h
  · rw [(refused_decodes op hop).2] at h
    cases h

end Sys2Proof

namespace Sys2Proof.Machine

variable {s : State}

/-! ## Fetching from PC on, whatever the bytes (R113) -/

/-- The state with `k` more bytes of the instruction stream fetched; `State.fetching` is this from the start of a step. -/
def State.fetched (s : State) (k : Nat) : State :=
  { s with
    pc := s.pc + BitVec.ofNat 16 k
    trace := s.trace ++ (List.range k).map fun j => .read (s.pc + BitVec.ofNat 16 j) (Certificates.fetchedByte s j)
    busTick := s.busTick + k }

theorem State.fetched_zero (s : State) : s.fetched 0 = s := by
  simp [State.fetched]

theorem State.fetchByte_fetched (s : State) (k : Nat) :
    (s.fetched k).fetchByte = (Certificates.fetchedByte s k, s.fetched (k + 1)) := by
  have hvalue : (s.fetched k).busValue (s.fetched k).pc = Certificates.fetchedByte s k := State.busValue_congr _ rfl rfl rfl
  have hpc : s.pc + BitVec.ofNat 16 k + 1#16 = s.pc + BitVec.ofNat 16 (k + 1) := by
    rw [BitVec.add_assoc, ← BitVec.ofNat_add]
  simp only [State.fetchByte, State.read8, hvalue]
  simp [State.fetched, State.record, State.setPC, List.range_succ, hpc, Nat.add_assoc]

theorem State.fetchIgnored_fetched (s : State) (k n : Nat) : (s.fetched k).fetchIgnored n = s.fetched (k + n) := by
  induction n generalizing k with
  | zero => rfl
  | succ n ih => rw [State.fetchIgnored, State.fetchByte_fetched, ih, Nat.succ_add_eq_add_succ]

/-- The operand bytes of an opcode byte are fetched from PC on, as many as its length asks for. -/
theorem State.fetchOperands_eq (s : State) (op : Byte) : s.fetchOperands op =
    (decodeWith op (Certificates.fetchedByte s 0) (Certificates.fetchedByte s 1), s.fetched (opcodeLength op - 1)) := by
  have hfirst : s.fetchByte = (Certificates.fetchedByte s 0, s.fetched 1) := by
    simpa only [s.fetched_zero] using s.fetchByte_fetched 0
  obtain hlen | hlen | hlen : opcodeLength op = 1 ∨ opcodeLength op = 2 ∨ opcodeLength op = 3 := by
    have hbounds := opcodeLength_bounds op
    omega
  · have hi : decodeWith op 0#8 0#8 = decodeWith op (Certificates.fetchedByte s 0) (Certificates.fetchedByte s 1) :=
      decodeWith_congr (by simp [instrBytes, hlen])
    simp [State.fetchOperands, hlen, hi, s.fetched_zero]
  · have hi : decodeWith op (Certificates.fetchedByte s 0) 0#8 =
        decodeWith op (Certificates.fetchedByte s 0) (Certificates.fetchedByte s 1) :=
      decodeWith_congr (by simp [instrBytes, hlen])
    simp [State.fetchOperands, hlen, hi, hfirst]
  · simp [State.fetchOperands, hlen, hfirst, State.fetchByte_fetched]

/-- The first bytes at PC are the bytes of an instruction. -/
theorem instrBytes_fetchedByte (s : State) :
    instrBytes (Certificates.fetchedByte s 0) (Certificates.fetchedByte s 1) (Certificates.fetchedByte s 2) =
      (List.range (opcodeLength (Certificates.fetchedByte s 0))).map (Certificates.fetchedByte s) := by
  rw [← Nat.min_eq_left (opcodeLength_bounds (Certificates.fetchedByte s 0)).2, ← List.take_range, List.map_take]
  rfl

/-- The whole fetch of a step, whatever the bytes at PC. -/
theorem State.fetchInstr_eq (s : State) : s.clearTrace.fetchInstr =
    (decodeWith (Certificates.fetchedByte s 0) (Certificates.fetchedByte s 1) (Certificates.fetchedByte s 2),
      s.fetching (opcodeLength (Certificates.fetchedByte s 0))) := by
  have hdecode := decode_instrBytes (Certificates.fetchedByte s 0) (Certificates.fetchedByte s 1) (Certificates.fetchedByte s 2) []
  rw [List.append_nil, instrBytes_fetchedByte] at hdecode
  rw [State.fetchInstr_of_decode (by rw [decodeWith_length]; exact hdecode), decodeWith_length]

/-! ## The UNDEFINED bytes (R292) -/

/-- An admitted instruction has a next state (R300). -/
theorem exec_completes {i : Instr} (s : State) (h : i.admitted = true) : ∃ t, exec i s = .next t := by
  obtain ⟨u, -, ho | ho | ho | ho⟩ := exec_ends s h <;> exact ⟨_, ho⟩

theorem meaningOf_eq_none {cfg : Config} {op : Byte} (h : ∀ m ∈ cfg.undefinedOpcodeMeaning, m.undefinedByte ≠ op) :
    meaningOf cfg op = none :=
  List.find?_eq_none.mpr fun m hm => by simpa using h m hm

/-- Parameters in range give an UNDEFINED byte an admitted form, with a length that holds it (R6). -/
theorem meaningOf_of_wf {cfg : Config} {op : Byte} {m : OpcodeMeaning} (hcfg : Config.wf cfg = true)
    (hm : meaningOf cfg op = some m) : (decodeWith m.opcode 0#8 0#8).admitted = true ∧ opcodeLength m.opcode ≤ m.length := by
  simp only [Config.wf, Bool.and_eq_true, List.all_eq_true, decide_eq_true_eq] at hcfg
  obtain ⟨-, hall⟩ := hcfg
  obtain ⟨⟨-, hadmitted⟩, hlen⟩ := hall m (meaningOf_eq_some hm).1
  exact ⟨hadmitted, hlen⟩

/-- An UNDEFINED byte executes as the form its meaning names, from the state with all the bytes of the meaning fetched. -/
theorem exec_undefined_eq {op : Byte} {m : OpcodeMeaning} (hm : meaningOf s.cfg op = some m)
    (hadmitted : (decodeWith m.opcode 0#8 0#8).admitted = true) (hlen : opcodeLength m.opcode ≤ m.length) :
    exec (.undefined op) s =
      exec (decodeWith m.opcode (Certificates.fetchedByte s 0) (Certificates.fetchedByte s 1)) (s.fetched (m.length - 1)) := by
  have hcount : opcodeLength m.opcode - 1 + (m.length - opcodeLength m.opcode) = m.length - 1 := by
    have hpos := (opcodeLength_bounds m.opcode).1
    omega
  show execUndefined op s = _
  rw [execUndefined_of_some hm, s.fetchOperands_eq, decodeWith_length, State.fetchIgnored_fetched, hcount,
    execAdmitted_eq_exec _ (decodeWith_admitted hadmitted _ _)]

/-! ## The refused steps -/

/-- A step is refused by what it executes. -/
theorem exec_of_step_refused {r : Refusal} (h : step s = .refused r) :
    exec s.clearTrace.fetchInstr.1 s.clearTrace.fetchInstr.2 = .refused r := by
  by_cases hserved : (s.run = .running ∧ s.skipPoll = false ∨ s.run = .waiting) ∧ s.interruptTakeable = true
  · obtain ⟨hboundary, hint⟩ := hserved
    cases (step_of_served hboundary hint).symm.trans h
  · cases hrun : s.run with
    | stopped => cases (step_of_stopped hrun).symm.trans h
    | waiting =>
      have hint : s.interruptTakeable = false := Bool.eq_false_iff.mpr fun hint => hserved ⟨.inr hrun, hint⟩
      cases (step_of_waiting hrun hint).symm.trans h
    | running =>
      have hpoll : s.skipPoll = true ∨ s.interruptTakeable = false := by
        cases hskip : s.skipPoll with
        | true => exact .inl rfl
        | false => exact .inr (Bool.eq_false_iff.mpr fun hint => hserved ⟨.inl ⟨hrun, hskip⟩, hint⟩)
      exact (step_of_not_served hrun hpoll).symm.trans h

end Sys2Proof.Machine

namespace Sys2Proof.Certificates

/-- Settles O14: the step is refused by the instruction at PC, which is not an admitted one, nor an UNDEFINED byte with a meaning;
each of the two others is one byte long and refuses itself. -/
theorem onlyUnadmittedBytesAreRefused : Obligations.OnlyUnadmittedBytesAreRefused := by
  intro s r hcfg hstep
  have hexec := exec_of_step_refused hstep
  rw [s.fetchInstr_eq] at hexec
  rcases decodeWith_cases (fetchedByte s 0) (fetchedByte s 1) (fetchedByte s 2) with hadmitted | ⟨hop, hi⟩ | ⟨hop, hi⟩
  · obtain ⟨t, ht⟩ := exec_completes (s.fetching (opcodeLength (fetchedByte s 0))) hadmitted
    cases ht.symm.trans hexec
  · rw [hi, (undefined_decodes _ hop).1] at hexec
    cases hm : meaningOf s.cfg (fetchedByte s 0) with
    | none => exact .inl ⟨hop, rfl, (Host.Outcome.refused.inj ((execUndefined_of_none (s := s.fetching 1) hm).symm.trans hexec)).symm⟩
    | some m =>
      obtain ⟨hadmitted, hlen⟩ := meaningOf_of_wf hcfg hm
      rw [exec_undefined_eq (s := s.fetching 1) hm hadmitted hlen] at hexec
      obtain ⟨t, ht⟩ := exec_completes ((s.fetching 1).fetched (m.length - 1)) (decodeWith_admitted hadmitted _ _)
      cases ht.symm.trans hexec
  · rw [hi, (refused_decodes _ hop).1] at hexec
    exact .inr ⟨hop, (Host.Outcome.refused.inj hexec).symm⟩

/-- Settles O57: the UNDEFINED byte is the form its meaning names, with all the bytes of the meaning fetched, and that form is admitted. -/
theorem undefinedBytesExecuteTheirConfiguredMeaning : Obligations.UndefinedBytesExecuteTheirConfiguredMeaning := by
  intro op s m hm hadmitted hlen
  obtain ⟨t, ht⟩ := exec_completes (s.fetched (m.length - 1))
    (decodeWith_admitted hadmitted (fetchedByte s 0) (fetchedByte s 1))
  exact ⟨t, (exec_undefined_eq hm hadmitted hlen).trans ht, ht⟩

/-- Settles O55: each meaning is the one write it is defined by, and each encoding its opcode byte. -/
theorem flagNopWaitStopResults : Obligations.FlagNopWaitStopResults :=
  ⟨rfl, fun _ => ⟨rfl, rfl, rfl, rfl, rfl, rfl, rfl, rfl, rfl, rfl, rfl, rfl⟩⟩

/-- Settles O56: a REFUSED byte refuses itself, and an UNDEFINED byte that the configuration does not list has no meaning. -/
theorem unadmittedBytesAreRefused : Obligations.UnadmittedBytesAreRefused :=
  fun _ _ => ⟨rfl, fun hunlisted => execUndefined_of_none (meaningOf_eq_none hunlisted)⟩

end Sys2Proof.Certificates
end

section
/-! The exceptions family (spec/60_exceptions.md): the interrupt lines and the non-maskable line, the entry and the return from it, and that
a masked line is not read. `State.setInputs` writes the two inputs that a step keeps; that no operation reads them is one equation per
operation, and a step with I set polls the NMI latch alone. -/

open Sys2Proof Sys2Proof.Machine

namespace Sys2Proof.Machine

/-! ## The inputs, and the operations, none of which reads them (R38, R41) -/

/-- The state with the line set and the level of the non-maskable line at given values. -/
def State.setInputs (s : State) (lines : BitVec 15) (level : Bool) : State := { s with lines := lines, nmiLevel := level }

section
variable (s : State) (lines : BitVec 15) (level : Bool)

theorem State.write8_setInputs (a : Addr) (v : Byte) :
    (s.setInputs lines level).write8 a v = (s.write8 a v).setInputs lines level := by
  have hkind : (s.setInputs lines level).kindAt a = s.kindAt a := rfl
  unfold State.write8
  rw [hkind]
  cases s.kindAt a <;> rfl

theorem State.push_setInputs (v : Byte) : (s.setInputs lines level).push v = (s.push v).setInputs lines level := by
  have hwrite := s.write8_setInputs lines level (join s.cfg.stackPage s.sp) v
  exact congrArg (fun t : State => t.setSP (t.sp - 1)) hwrite

theorem State.pushPC_setInputs (w : Addr) : (s.setInputs lines level).pushPC w = (s.pushPC w).setInputs lines level := by
  simp only [State.pushPC, State.push_setInputs]

theorem State.entry_setInputs (src : EntrySource) :
    (s.setInputs lines level).entry src = (s.entry src).setInputs lines level := by
  have hframe : (s.setInputs lines level).entryFrame src = (s.entryFrame src).setInputs lines level := by
    have hlatched : (s.setInputs lines level).latched src = (s.latched src).setInputs lines level := rfl
    simp only [State.entryFrame, hlatched, State.pushFrame, State.pushPC_setInputs, State.push_setInputs]
    rfl
  simp only [State.entry_eq_goThroughVector, hframe]
  rfl

theorem State.effectiveAddress_setInputs (f : MemForm) : (s.setInputs lines level).effectiveAddress f =
    ((s.effectiveAddress f).1, (s.effectiveAddress f).2.setInputs lines level) := by
  cases f <;> rfl

theorem State.loadMem_setInputs (f : MemForm) :
    (s.setInputs lines level).loadMem f = ((s.loadMem f).1, (s.loadMem f).2.setInputs lines level) := by
  rw [State.loadMem_eq, State.effectiveAddress_setInputs]
  rfl

theorem State.load_setInputs (f : Source) :
    (s.setInputs lines level).load f = ((s.load f).1, (s.load f).2.setInputs lines level) := by
  cases f with
  | imm v => rfl
  | mem f => exact s.loadMem_setInputs lines level f

theorem State.storeMem_setInputs (f : MemForm) (v : Byte) :
    (s.setInputs lines level).storeMem f v = (s.storeMem f v).setInputs lines level := by
  rw [State.storeMem_eq, State.effectiveAddress_setInputs, State.write8_setInputs]
  rfl

theorem State.modify_setInputs (f : Target) (g : Byte → Byte) :
    (s.setInputs lines level).modify f g = ((s.modify f g).1, (s.modify f g).2.setInputs lines level) := by
  cases f with
  | acc => rfl
  | mem f =>
    simp only [State.modify_mem_eq, State.loadMem_setInputs, State.effectiveAddress_setInputs, State.write8_setInputs]

theorem State.modifyNZ_setInputs (f : Target) (g : Byte → Byte) :
    (s.setInputs lines level).modifyNZ f g = (s.modifyNZ f g).setInputs lines level := by
  simp only [State.modifyNZ, State.modify_setInputs]
  rfl

theorem State.shift_setInputs (f : Target) (g : Byte → Byte) (out : Nat) :
    (s.setInputs lines level).shift f g out = (s.shift f g out).setInputs lines level := by
  simp only [State.shift, State.modify_setInputs]
  rfl

theorem State.readDest_setInputs :
    (s.setInputs lines level).readDest = (s.readDest.1, s.readDest.2.setInputs lines level) := by
  cases ht : s.p.t with
  | false => rw [State.readDest_of_clear ht, State.readDest_of_clear (s := s.setInputs lines level) ht]; rfl
  | true => rw [State.readDest_of_set ht, State.readDest_of_set (s := s.setInputs lines level) ht]; rfl

theorem State.writeDest_setInputs (r : Byte) :
    (s.setInputs lines level).writeDest r = (s.writeDest r).setInputs lines level := by
  cases ht : s.p.t with
  | false => rw [State.writeDest_of_clear r ht, State.writeDest_of_clear (s := s.setInputs lines level) r ht]; rfl
  | true =>
    rw [State.writeDest_of_set r ht, State.writeDest_of_set (s := s.setInputs lines level) r ht]
    exact s.write8_setInputs lines level _ r

theorem State.routedOperands_setInputs (f : Source) : (s.setInputs lines level).routedOperands f =
    ((s.routedOperands f).1, (s.routedOperands f).2.setInputs lines level) := by
  simp only [State.routedOperands, State.load_setInputs, State.readDest_setInputs]

theorem State.routedWrite_setInputs (f : Source) (result : Byte → Byte → Byte) (flags : Byte → Byte → Flags) :
    (s.setInputs lines level).routedWrite f result flags = (s.routedWrite f result flags).setInputs lines level := by
  simp only [State.routedWrite, State.routedOperands_setInputs, State.writeDest_setInputs]
  rfl

theorem State.routedNZ_setInputs (f : Source) (op : Byte → Byte → Byte) :
    (s.setInputs lines level).routedNZ f op = (s.routedNZ f op).setInputs lines level := by
  simp only [State.routedNZ_eq_routedWrite, State.routedWrite_setInputs]
  rfl

theorem State.compareWith_setInputs (r : Byte) (f : Source) :
    (s.setInputs lines level).compareWith r f = (s.compareWith r f).setInputs lines level := by
  simp only [State.compareWith, State.load_setInputs]
  rfl

theorem State.call_setInputs (target : Addr) :
    (s.setInputs lines level).call target = (s.call target).setInputs lines level :=
  congrArg (State.setPC · target) (s.pushPC_setInputs lines level (s.pc - 1))

theorem State.branch_setInputs (cond : Bool) (rel : Byte) :
    (s.setInputs lines level).branch cond rel = (s.branch cond rel).setInputs lines level := by
  cases cond <;> rfl

theorem State.loadBitTarget_setInputs (f : BitTarget) : (s.setInputs lines level).loadBitTarget f =
    ((s.loadBitTarget f).1, (s.loadBitTarget f).2.setInputs lines level) := by
  cases f <;> rfl

theorem State.jmpTarget_setInputs (f : JmpTarget) :
    (s.setInputs lines level).jmpTarget f = ((s.jmpTarget f).1, (s.jmpTarget f).2.setInputs lines level) := by
  cases f <;> rfl

theorem State.jsrTarget_setInputs (f : JsrTarget) :
    (s.setInputs lines level).jsrTarget f = ((s.jsrTarget f).1, (s.jsrTarget f).2.setInputs lines level) := by
  cases f <;> rfl

/-! ## The instructions, none of which reads them -/

theorem exec_seb_eq (i : BitVec 3) (f : BitTarget) : exec (.seb i f) s = .next (s.modify (bitOperand f) (setBit i)).2 := rfl

theorem exec_clb_eq (i : BitVec 3) (f : BitTarget) : exec (.clb i f) s = .next (s.modify (bitOperand f) (clearBit i)).2 := rfl

/-- An admitted instruction runs alike whatever the inputs: by its shared operation, or, where it writes registers and flags or the run state
alone, by definition. -/
theorem exec_setInputs_of_admitted {i : Instr} (h : i.admitted = true) :
    exec i (s.setInputs lines level) = Certificates.withInputs lines level (exec i s) := by
  cases i
  case undefined => cases h
  case refusedOpcode => cases h
  case adc f => rw [exec_adc_eq_routedWrite, exec_adc_eq_routedWrite, State.routedWrite_setInputs]; rfl
  case sbc f => rw [exec_sbc_eq_routedWrite, exec_sbc_eq_routedWrite, State.routedWrite_setInputs]; rfl
  case and f => exact congrArg _ (s.routedNZ_setInputs lines level f _)
  case ora f => exact congrArg _ (s.routedNZ_setInputs lines level f _)
  case eor f => exact congrArg _ (s.routedNZ_setInputs lines level f _)
  case lda f => exact congrArg _ (s.routedNZ_setInputs lines level f _)
  case cmp f => rw [exec_cmp_eq, exec_cmp_eq, State.routedOperands_setInputs]; rfl
  case cpx f => exact congrArg _ (s.compareWith_setInputs lines level s.x f)
  case cpy f => exact congrArg _ (s.compareWith_setInputs lines level s.y f)
  case inc f => exact congrArg _ (s.modifyNZ_setInputs lines level f _)
  case dec f => exact congrArg _ (s.modifyNZ_setInputs lines level f _)
  case com zz => exact congrArg _ (s.modifyNZ_setInputs lines level (.mem (.zp zz)) _)
  case asl f => exact congrArg _ (s.shift_setInputs lines level f _ _)
  case lsr f => exact congrArg _ (s.shift_setInputs lines level f _ _)
  case rol f => exact congrArg _ (s.shift_setInputs lines level f _ _)
  case ror f => exact congrArg _ (s.shift_setInputs lines level f _ _)
  case seb n f => rw [exec_seb_eq, exec_seb_eq, State.modify_setInputs]; rfl
  case clb n f => rw [exec_clb_eq, exec_clb_eq, State.modify_setInputs]; rfl
  case rrf zz => rw [exec_rrf_eq, exec_rrf_eq, State.modify_setInputs]; rfl
  case bit f => rw [exec_bit_eq, exec_bit_eq, State.loadMem_setInputs]; rfl
  case ldx f => rw [exec_ldx_eq, exec_ldx_eq, State.load_setInputs]; rfl
  case ldy f => rw [exec_ldy_eq, exec_ldy_eq, State.load_setInputs]; rfl
  case ldm v zz => exact congrArg _ (s.write8_setInputs lines level (zeroPage zz) v)
  case sta f => exact congrArg _ (s.storeMem_setInputs lines level f s.a)
  case stx f => exact congrArg _ (s.storeMem_setInputs lines level f s.x)
  case sty f => exact congrArg _ (s.storeMem_setInputs lines level f s.y)
  case pha => exact congrArg _ (s.push_setInputs lines level s.a)
  case php => exact congrArg _ (s.push_setInputs lines level (packP s.p true))
  case jmp f => rw [exec_jmp_eq, exec_jmp_eq, State.jmpTarget_setInputs]; rfl
  case jsr f => rw [exec_jsr_eq, exec_jsr_eq, State.jsrTarget_setInputs, State.call_setInputs]; rfl
  case brk signature => exact congrArg _ (s.entry_setInputs lines level .brk)
  case bbs n f rel => rw [exec_bbs_eq, exec_bbs_eq, State.loadBitTarget_setInputs, State.branch_setInputs]; rfl
  case bbc n f rel => rw [exec_bbc_eq, exec_bbc_eq, State.loadBitTarget_setInputs, State.branch_setInputs]; rfl
  case bpl rel => exact congrArg _ (s.branch_setInputs lines level (!s.p.n) rel)
  case bmi rel => exact congrArg _ (s.branch_setInputs lines level s.p.n rel)
  case bvc rel => exact congrArg _ (s.branch_setInputs lines level (!s.p.v) rel)
  case bvs rel => exact congrArg _ (s.branch_setInputs lines level s.p.v rel)
  case bcc rel => exact congrArg _ (s.branch_setInputs lines level (!s.p.c) rel)
  case bcs rel => exact congrArg _ (s.branch_setInputs lines level s.p.c rel)
  case bne rel => exact congrArg _ (s.branch_setInputs lines level (!s.p.z) rel)
  case beq rel => exact congrArg _ (s.branch_setInputs lines level s.p.z rel)
  all_goals rfl

theorem execAdmitted_setInputs (i : Instr) :
    execAdmitted i (s.setInputs lines level) = Certificates.withInputs lines level (execAdmitted i s) := by
  by_cases h : i.admitted = true
  · rw [execAdmitted_eq_exec _ h, execAdmitted_eq_exec _ h, exec_setInputs_of_admitted _ _ _ h]
  · cases i
    case undefined op => rfl
    case refusedOpcode op => rfl
    all_goals exact absurd rfl h

/-- What an UNDEFINED byte with a meaning executes, whatever the meaning's form and length. -/
theorem execUndefined_eq_of_meaning {s : State} {op : Byte} {m : OpcodeMeaning} (hm : meaningOf s.cfg op = some m) :
    execUndefined op s = execAdmitted (decodeWith m.opcode (Certificates.fetchedByte s 0) (Certificates.fetchedByte s 1))
      (s.fetched (opcodeLength m.opcode - 1 + (m.length - opcodeLength m.opcode))) := by
  rw [execUndefined_of_some hm, s.fetchOperands_eq, decodeWith_length, State.fetchIgnored_fetched]

theorem execUndefined_setInputs (op : Byte) :
    execUndefined op (s.setInputs lines level) = Certificates.withInputs lines level (execUndefined op s) := by
  cases hm : meaningOf s.cfg op with
  | none => rw [execUndefined_of_none hm, execUndefined_of_none (s := s.setInputs lines level) hm]; rfl
  | some m =>
    rw [execUndefined_eq_of_meaning hm, execUndefined_eq_of_meaning (s := s.setInputs lines level) hm]
    exact execAdmitted_setInputs (s.fetched _) lines level _

theorem exec_setInputs (i : Instr) :
    exec i (s.setInputs lines level) = Certificates.withInputs lines level (exec i s) := by
  cases i
  case undefined op => exact execUndefined_setInputs s lines level op
  case refusedOpcode op => rfl
  all_goals exact exec_setInputs_of_admitted s lines level (by rfl)

/-! ## The poll, while I is set (R110, R314, R315) -/

theorem State.interruptTakeable_of_masked {s : State} (hi : s.p.i = true) :
    s.interruptTakeable = (s.cfg.hasNmi && s.nmiPending) := by
  simp [State.interruptTakeable, hi]

theorem State.selectedSource_eq_nmi {s : State} (hnmi : (s.cfg.hasNmi && s.nmiPending) = true) : s.selectedSource = .nmi := by
  simp [State.selectedSource, hnmi]

/-- An NMI entry reads no line. -/
theorem State.serveInterrupt_setInputs (hnmi : (s.cfg.hasNmi && s.nmiPending) = true) :
    (s.setInputs lines level).serveInterrupt = s.serveInterrupt.setInputs lines level := by
  rw [State.serveInterrupt, State.serveInterrupt, State.selectedSource_eq_nmi hnmi,
    State.selectedSource_eq_nmi (s := s.setInputs lines level) hnmi]
  exact State.entry_setInputs { s with run := .running } lines level .nmi

theorem State.fetchInstr_setInputs : (s.setInputs lines level).clearTrace.fetchInstr =
    (s.clearTrace.fetchInstr.1, s.clearTrace.fetchInstr.2.setInputs lines level) := by
  rw [State.fetchInstr_eq, State.fetchInstr_eq]
  rfl

/-- A boundary is one of four: the core is stopped, it waits on, it serves an interrupt, or it executes (R110). -/
theorem State.boundary_cases : s.run = .stopped ∨ (s.run = .waiting ∧ s.interruptTakeable = false) ∨
    ((s.run = .running ∧ s.skipPoll = false ∨ s.run = .waiting) ∧ s.interruptTakeable = true) ∨
    (s.run = .running ∧ (s.skipPoll = true ∨ s.interruptTakeable = false)) := by
  cases s.run with
  | stopped => exact .inl rfl
  | waiting =>
    cases s.interruptTakeable with
    | false => exact .inr (.inl ⟨rfl, rfl⟩)
    | true => exact .inr (.inr (.inl ⟨.inr rfl, rfl⟩))
  | running =>
    cases s.skipPoll with
    | true => exact .inr (.inr (.inr ⟨rfl, .inl rfl⟩))
    | false =>
      cases s.interruptTakeable with
      | false => exact .inr (.inr (.inr ⟨rfl, .inr rfl⟩))
      | true => exact .inr (.inr (.inl ⟨.inl ⟨rfl, rfl⟩, rfl⟩))

/-- With I set the two runs take the same branch of the step. -/
theorem step_setInputs (hi : s.p.i = true) :
    step (s.setInputs lines level) = Certificates.withInputs lines level (step s) := by
  have hpoll : (s.setInputs lines level).interruptTakeable = s.interruptTakeable :=
    (State.interruptTakeable_of_masked (s := s.setInputs lines level) hi).trans (State.interruptTakeable_of_masked hi).symm
  rcases s.boundary_cases with hrun | ⟨hrun, hint⟩ | ⟨hboundary, hint⟩ | ⟨hrun, hnot⟩
  · rw [step_of_stopped hrun, step_of_stopped (s := s.setInputs lines level) hrun]
    rfl
  · rw [step_of_waiting hrun hint, step_of_waiting (s := s.setInputs lines level) hrun (hpoll.trans hint)]
    rfl
  · have hnmi : (s.cfg.hasNmi && s.nmiPending) = true := State.interruptTakeable_of_masked hi ▸ hint
    rw [step_of_served hboundary hint, step_of_served (s := s.setInputs lines level) hboundary (hpoll.trans hint)]
    exact congrArg _ (State.serveInterrupt_setInputs s.clearTrace lines level hnmi)
  · rw [step_of_not_served hrun hnot, step_of_not_served (s := s.setInputs lines level) hrun (hpoll ▸ hnot),
      State.fetchInstr_setInputs]
    exact exec_setInputs _ lines level _

end

/-! ## The lines (R311 to R314) -/

theorem lines_ne_zero_iff {lines : BitVec 15} : lines ≠ 0#15 ↔ ∃ n, n < 15 ∧ lines.getLsbD n = true := by
  refine ⟨fun h => ?_, ?_⟩
  · obtain ⟨n, hn, hset, -⟩ := exists_lowestLine h
    exact ⟨n, hn, hset⟩
  · rintro ⟨n, -, hset⟩ rfl
    simp at hset

/-- Deasserting a line clears its bit, where it has one. -/
theorem setLineBit_false_getLsbD (lines : BitVec 15) (line n : Nat) :
    (setLineBit lines line false).getLsbD n = (decide (n ≠ line) && lines.getLsbD n) := by
  rcases Nat.lt_or_ge n 15 with hn | hn
  · by_cases h : n = line
    · simp [setLineBit, h]
    · simp [setLineBit, h, hn]
      omega
  · simp [BitVec.getLsbD_of_ge _ _ hn]

variable {s t : State}

theorem State.setIrqLine_eq_some {line : Nat} {level : Bool} : s.setIrqLine line level = some t ↔
    line < s.cfg.numIrqLines ∧ { s with lines := setLineBit s.lines line level } = t := by
  simp [State.setIrqLine]

theorem State.setNmiLine_eq_some {level : Bool} : s.setNmiLine level = some t ↔ s.cfg.hasNmi = true ∧
    { s with nmiPending := s.nmiPending || (!s.nmiLevel && level), nmiLevel := level } = t := by
  simp [State.setNmiLine]

theorem State.linesValid_iff :
    s.linesValid = true ↔ ∀ n, n < 15 → s.lines.getLsbD n = true → n < s.cfg.numIrqLines := by
  simp only [State.linesValid, List.all_eq_true, List.mem_range, Bool.or_eq_true, decide_eq_true_eq, Bool.not_eq_true']
  refine forall_congr' fun n => forall_congr' fun _ => ?_
  cases s.lines.getLsbD n <;> simp

theorem State.pendingVector_eq_of_lowest {n : Nat} (hn : n < 15) (hset : s.lines.getLsbD n = true)
    (hleast : ∀ m, m < n → s.lines.getLsbD m = false) :
    s.pendingVector = some (BitVec.ofInt 16 ((s.cfg.baseVector.toNat : Int) - 2 * n)) := by
  rw [State.pendingVector, lowestLine_eq_some hn hset hleast, Option.map_some, lineVector_eq]

theorem State.interruptTakeable_iff : s.interruptTakeable = true ↔
    (s.cfg.hasNmi = true ∧ s.nmiPending = true) ∨ (s.lines ≠ 0#15 ∧ s.p.i = false) := by
  simp [State.interruptTakeable]

theorem State.controller_eq_idle_iff : s.controller = .idle ↔ s.lines = 0#15 ∧ s.nmiPending = false := by
  simp [State.controller]

theorem State.controller_eq_pending_iff : s.controller = .pending ↔ s.lines ≠ 0#15 ∨ s.nmiPending = true := by
  by_cases h : s.lines = 0#15
  · simp [State.controller, h]
  · simp [State.controller, h]

/-! ## The invariant under the host's moves (R336) -/

/-- Parameters in range give the core at most 15 lines (R6). -/
theorem numIrqLines_le_of_wf {cfg : Config} (hcfg : Config.wf cfg = true) : cfg.numIrqLines ≤ 15 := by
  simp only [Config.wf, Bool.and_eq_true, decide_eq_true_eq] at hcfg
  obtain ⟨⟨-, hmax⟩, -⟩ := hcfg
  exact hmax

theorem State.Inv.hostReset (hs : s.Inv) : s.hostReset.Inv := by
  obtain ⟨hcfg, hmem, hlines, -, -⟩ := hs
  have hbefore : s.beforeResetVector.Inv := ⟨hcfg, hmem, hlines, by simp [State.beforeResetVector], fun _ => rfl⟩
  rw [s.hostReset_eq]
  exact ((State.read16_readsOnly _ _).keeps.trans (State.setPC_keeps _ _)).inv hbefore

theorem State.Inv.setIrqLine {line : Nat} {level : Bool} (hs : s.Inv) (hmove : s.setIrqLine line level = some t) : t.Inv := by
  obtain ⟨hline, rfl⟩ := State.setIrqLine_eq_some.mp hmove
  obtain ⟨hcfg, hmem, hlines, hnmi, hskip⟩ := hs
  have hmax := numIrqLines_le_of_wf hcfg
  refine ⟨hcfg, hmem, State.linesValid_iff.mpr fun n hn hset => ?_, hnmi, hskip⟩
  by_cases h : n = line
  · exact h ▸ hline
  · rw [setLineBit_getLsbD level hn (by omega), if_neg h] at hset
    exact State.linesValid_iff.mp hlines n hn hset

theorem State.Inv.setNmiLine {level : Bool} (hs : s.Inv) (hmove : s.setNmiLine level = some t) : t.Inv := by
  obtain ⟨hhas, rfl⟩ := State.setNmiLine_eq_some.mp hmove
  obtain ⟨hcfg, hmem, hlines, -, hskip⟩ := hs
  exact ⟨hcfg, hmem, hlines, fun _ => hhas, hskip⟩

theorem State.Inv.externalWrite (hs : s.Inv) (a : Addr) (v : Byte) : (s.externalWrite a v).Inv := by
  obtain ⟨hcfg, hmem, hlines, hnmi, hskip⟩ := hs
  unfold State.externalWrite
  split
  · exact ⟨hcfg, Memory.write_wf hmem a.isLt, hlines, hnmi, hskip⟩
  · exact ⟨hcfg, hmem, hlines, hnmi, hskip⟩
  · exact ⟨hcfg, hmem, hlines, hnmi, hskip⟩

/-! ## The entry's source (R34) -/

theorem EntrySource.breakBit_eq_decide (src : EntrySource) : src.breakBit = decide (src = .brk) := by
  cases src <;> simp [EntrySource.breakBit]

end Sys2Proof.Machine

namespace Sys2Proof.Certificates

/-- Settles O12: with I set the poll looks at the NMI latch alone, an NMI entry reads no line, and no instruction reads one. -/
theorem maskedLinesDoNotAffectTheStep : Obligations.MaskedLinesDoNotAffectTheStep :=
  fun s lines level hi => step_setInputs s lines level hi

/-- Settles O10: deasserting another line leaves the lowest asserted line what it was. -/
theorem lowestAssertedLineGivesTheVector : Obligations.LowestAssertedLineGivesTheVector := by
  refine fun s => ⟨fun h => ?_, fun n hn hset hleast => ?_⟩
  · rw [State.pendingVector, h]
    rfl
  · have hvector := State.pendingVector_eq_of_lowest hn hset hleast
    refine ⟨hvector, fun k t hk hmove => ?_⟩
    obtain ⟨-, rfl⟩ := State.setIrqLine_eq_some.mp hmove
    rw [hvector]
    refine State.pendingVector_eq_of_lowest hn ?_ fun m hm => ?_
    · simp [setLineBit_false_getLsbD, hk.symm, hset]
    · simp [setLineBit_false_getLsbD, hleast m hm]

/-- Settles O16: reset sets what the invariant speaks of, a line's move needs the line, and another master's write keeps the
canonical form. -/
theorem hostMovesKeepTheInvariant : Obligations.HostMovesKeepTheInvariant := by
  intro s t move hs hmove
  cases move with
  | reset => exact Option.some.inj hmove ▸ hs.hostReset
  | setIrqLine line level => exact hs.setIrqLine hmove
  | setNmiLine level => exact hs.setNmiLine hmove
  | externalWrite a v => exact Option.some.inj hmove ▸ hs.externalWrite a v

/-- Settles O21: the move is there exactly for a line the core has, and changes one bit. -/
theorem setIrqLineSetsItsLineAlone : Obligations.SetIrqLineSetsItsLineAlone := by
  refine fun s line level hmax => ⟨fun h => if_neg (Nat.not_lt.mpr h), fun h => ?_⟩
  exact ⟨_, State.setIrqLine_eq_some.mpr ⟨h, rfl⟩, rfl, fun n hn => setLineBit_getLsbD level hn (by omega)⟩

/-- Settles O52: the entry's whole effect, with bit 4 of the status byte set for BRK alone. -/
theorem entrySequenceEffect : Obligations.EntrySequenceEffect :=
  fun _ src hw => src.breakBit_eq_decide ▸ State.entry_effect src hw

/-- Settles O53: in plain RAM, RTI reads back the status byte and the two bytes of PC that the entry pushed. -/
theorem rtiUndoesTheEntry : Obligations.RtiUndoesTheEntry := by
  intro s src hw ⟨hram0, hram1, hram2⟩
  obtain ⟨-, -, -, -, -, -, hsp, -, -, -, -, hhigh, hlow, hstatus, hframe⟩ := State.entry_effect (s := s) src hw
  obtain ⟨v, lo, hi, hv, hlo, hhi, hrti⟩ := rtiResult (s.entry src)
  generalize s.entry src = t at *
  have hcfg : t.cfg = s.cfg := by rw [hframe]
  have hat2 : t.cfg.stackPage ++ (t.sp + 1) = s.cfg.stackPage ++ (s.sp - 2) := by rw [hcfg, hsp]; congr 1; bv_omega
  have hat1 : t.cfg.stackPage ++ (t.sp + 2) = s.cfg.stackPage ++ (s.sp - 1) := by rw [hcfg, hsp]; congr 1; bv_omega
  have hat0 : t.cfg.stackPage ++ (t.sp + 3) = s.cfg.stackPage ++ s.sp := by rw [hcfg, hsp, BitVec.sub_add_cancel]
  have hkind (a : Addr) : t.kindAt a = s.kindAt a := by rw [State.kindAt, hcfg, State.kindAt]
  rw [hat2] at hv hrti
  rw [hat1] at hlo hrti
  rw [hat0] at hhi hrti
  have hv' : v = packP s.p src.breakBit := (hv.eq_peek_of_ram (by rw [hkind, hram2])).trans (hstatus hram2)
  have hlo' : lo = lowByte s.pc := (hlo.eq_peek_of_ram (by rw [hkind, hram1])).trans (hlow hram1)
  have hhi' : hi = highByte s.pc := (hhi.eq_peek_of_ram (by rw [hkind, hram0])).trans (hhigh hram0)
  refine ⟨_, hrti, ?_, ?_, ?_, ?_, ?_, ?_, ?_, fun _ => rfl⟩
  · rw [hhi', hlo']
    exact join_highByte_lowByte s.pc
  · rw [hsp, BitVec.sub_add_cancel]
  · rw [hv']
    exact unpackP_packP s.p src.breakBit
  all_goals rw [hframe]

/-- Settles O11: some line is asserted exactly where the line set is not zero. -/
theorem interruptStateIsReadOffTheInputs : Obligations.InterruptStateIsReadOffTheInputs := by
  intro s
  have hlines : s.lines ≠ 0#15 ↔ ∃ n, s.lines.getLsbD n = true :=
    lines_ne_zero_iff.trans (exists_congr fun n => and_iff_right_of_imp BitVec.lt_of_getLsbD)
  refine ⟨?_, ?_, ?_⟩
  · rw [State.interruptTakeable_iff, lines_ne_zero_iff]
  · have hnone : s.lines = 0#15 ↔ ∀ n, s.lines.getLsbD n = false := by
      simpa using not_congr hlines
    rw [State.controller_eq_idle_iff, hnone]
  · rw [State.controller_eq_pending_iff, hlines]

/-- Settles O13: an admitted instruction ends in one of four ways, each a next state. -/
theorem everyAdmittedInstructionCompletes : Obligations.EveryAdmittedInstructionCompletes :=
  fun _ s h => exec_completes s h

/-- Settles O22: the latch is set where it was set, or by an edge from 0 to 1. -/
theorem onlyARisingEdgeRequestsTheNmi : Obligations.OnlyARisingEdgeRequestsTheNmi := by
  refine fun s level => ⟨fun h => if_neg (by simp [h]), fun h => ?_⟩
  exact ⟨_, State.setNmiLine_eq_some.mpr ⟨h, rfl⟩, rfl, by simp⟩

end Sys2Proof.Certificates
end
